-- ==== Sys2Proof/Word.lean ====
section
/-! DEFINITION. Word types, the index types of the device's like items, and the table of a fixed number of like
items with its two laws. -/

namespace Sys2Proof

abbrev Byte := BitVec 8
abbrev Word16 := BitVec 16
abbrev Word32 := BitVec 32
abbrev Word64 := BitVec 64

/-- A value of the timebase: a 64-bit count of ticks (spec 00, Time). -/
abbrev Instant := BitVec 64
/-- A 64-bit address of system memory (spec 00, Memory). -/
abbrev Address := BitVec 64
/-- A set of lanes; bit n stands for lane Ln (spec 00, Lane sets). -/
abbrev LaneSet := BitVec 16

abbrev TrackId := Fin 8
abbrev LaneId := Fin 16
abbrev ProbeId := Fin 16
abbrev GangId := Fin 6
abbrev SlotId := Fin 32

/-- A fixed number of like items, numbered from zero (spec 00, Indices). -/
abbrev Table (n : Nat) (α : Type) := Vector α n

/-- Item `i`. -/
def Table.get {n : Nat} {α : Type} (v : Table n α) (i : Fin n) : α := v[i]

/-- The table with item `i` replaced. -/
def Table.put {n : Nat} {α : Type} (v : Table n α) (i : Fin n) (x : α) : Table n α := v.set i x

/-- The table whose item `i` is `f i`. -/
def Table.tab {n : Nat} {α : Type} (f : Fin n → α) : Table n α := Vector.ofFn f

/-- The table with item `i` changed by `f`. -/
def Table.modify {n : Nat} {α : Type} (v : Table n α) (i : Fin n) (f : α → α) : Table n α :=
  v.put i (f (v.get i))

@[simp] theorem Table.get_put {n : Nat} {α : Type} (v : Table n α) (i j : Fin n) (x : α) :
    (v.put i x).get j = if i = j then x else v.get j := by
  simp [Table.get, Table.put, Vector.getElem_set, Fin.ext_iff]

@[simp] theorem Table.get_tab {n : Nat} {α : Type} (f : Fin n → α) (i : Fin n) :
    (Table.tab f).get i = f i := by
  simp [Table.get, Table.tab]

@[simp] theorem Table.get_modify {n : Nat} {α : Type} (v : Table n α) (i j : Fin n) (f : α → α) :
    (v.modify i f).get j = if i = j then f (v.get j) else v.get j := by
  by_cases h : i = j <;> simp [Table.modify, h]

/-- Two tables with the same items are equal. -/
theorem Table.ext_get {n : Nat} {α : Type} {v w : Table n α} (h : ∀ i, v.get i = w.get i) : v = w := by
  apply Vector.ext
  intro i hi
  exact h ⟨i, hi⟩

/-- All tracks, T0 first. -/
def allTracks : List TrackId := [0, 1, 2, 3, 4, 5, 6, 7]
/-- All lanes, L0 first. -/
def allLanes : List LaneId := [0, 1, 2, 3, 4, 5, 6, 7, 8, 9, 10, 11, 12, 13, 14, 15]
/-- All probes, P0 first. -/
def allProbes : List ProbeId := [0, 1, 2, 3, 4, 5, 6, 7, 8, 9, 10, 11, 12, 13, 14, 15]
/-- All gangs, G0 first. -/
def allGangs : List GangId := [0, 1, 2, 3, 4, 5]
/-- All incident slots, slot 0 first. -/
def allSlots : List SlotId :=
  [0, 1, 2, 3, 4, 5, 6, 7, 8, 9, 10, 11, 12, 13, 14, 15] ++
  [16, 17, 18, 19, 20, 21, 22, 23, 24, 25, 26, 27, 28, 29, 30, 31]

end Sys2Proof
end

