-- ==== Sys2Proof/Syntax.lean ====
section
/-! DEFINITION. The commands of the block: one constructor for each row of spec/opcode_table.json, with the data the
rules say the event carries. -/

namespace Sys2Proof

/-- How a read of `n` bits completes (R130): the whole record as one little-endian integer (R181), or an error. -/
inductive ReadResult (n : Nat) where
  | data (d : BitVec n)
  | error
deriving DecidableEq, Repr

/-- How a write completes (R130). -/
inductive WriteResult where
  | stored
  | error
deriving DecidableEq, Repr

/-- To which of a probe's two consumers an edge is handed, and in which order: two separate events that need no order
between them (R86, log 11). -/
inductive EdgeOrder where
  | windowThenListener
  | listenerThenWindow
  | windowOnly
  | listenerOnly
deriving DecidableEq, Repr

/-- The two edges of RESET_N (R180, log 14). -/
inductive ResetPhase where
  | low
  | high
deriving DecidableEq, Repr

/-- The registers a write to which can have no effect: IDENT, TIME_LO and TIME_HI always (R169, R9, R10), CONTROL when
the command field holds no command code (R172). -/
inductive QuietRegister where
  | ident
  | timeLo
  | timeHi
  | control
deriving DecidableEq, Repr

/-- One access of a bus agent to the register window: byte offset within the 32 bytes, width in bytes, direction
(R168). -/
structure RegisterAccess where
  offset : BitVec 5
  width : Nat
  write : Bool
deriving DecidableEq, Repr

/-- A command of the block, one constructor for each row of the table. -/
inductive Instr where
  /-- FRAME_BOUNDARY, R5. -/
  | frameBoundary
  /-- PROBE_EDGE, R86. -/
  | probeEdge (probe : ProbeId) (order : EdgeOrder)
  /-- DISPATCH_EVENT, R53. -/
  | dispatchEvent
  /-- RETURN_EDGE_EXPIRY, R78. -/
  | returnEdgeExpiry (lane : LaneId)
  /-- DEADLINE_EXPIRY, R93. -/
  | deadlineExpiry (probe : ProbeId)
  /-- TIMEOUT_EXPIRY, R104. -/
  | timeoutExpiry (probe : ProbeId)
  /-- TIME_LO_READ, R9. -/
  | timeLoRead
  /-- RUN, R172; `pins` are the PROBE levels at the acceptance (R87), bit n HIGH for probe n. -/
  | run (pins : Word16)
  /-- STOP, R175. -/
  | stop
  /-- SCAN, R135. -/
  | scan
  /-- RESET, R179. -/
  | reset
  /-- ANCHOR_LO_WRITE, R170. -/
  | anchorLoWrite (value : Word32)
  /-- ANCHOR_HI_WRITE, R170. -/
  | anchorHiWrite (value : Word32)
  /-- ATTENTION_WRITE, R177. -/
  | attentionWrite (value : Word32)
  /-- ATTN_ENABLE_WRITE, R178. -/
  | attnEnableWrite (value : Word32)
  /-- REGISTER_WRITE_NO_EFFECT, R168. -/
  | registerWriteNoEffect (register : QuietRegister) (value : Word32)
  /-- BAD_REGISTER_ACCESS, R168. -/
  | badRegisterAccess (access : RegisterAccess)
  /-- POWER_ON_RESET, R180. -/
  | powerOnReset (phase : ResetPhase)
  /-- START_TRACK, R155: the descriptor read of a taken START_TRACK completes. -/
  | startTrack (descriptor : ReadResult 128)
  /-- DRAIN_TRACK, R156: the slot read completes with this directive. -/
  | drainTrack (sequence : Word16) (track : Word64)
  /-- ABORT_TRACK, R158. -/
  | abortTrack (sequence : Word16) (track : Word64)
  /-- CLEAR_TRACK, R159. -/
  | clearTrack (sequence : Word16) (track : Word64)
  /-- SET_GANG, R161. -/
  | setGang (sequence : Word16) (gang lanes : Word64)
  /-- CONFIGURE_LANE, R162. -/
  | configureLane (sequence : Word16) (lane safe : Word64)
  /-- SET_FAULT_POLICY, R163. -/
  | setFaultPolicy (sequence : Word16) (kind cls masked : Word64)
  /-- ACK_FAULTS, R164. -/
  | ackFaults (sequence : Word16) (kinds : Word64)
  /-- LOAD_TIME, R7. -/
  | loadTime (sequence : Word16) (value : Word64)
  /-- SET_FRAME, R8. -/
  | setFrame (sequence : Word16) (exponent : Word64)
  /-- HEADER_READ_DONE, R17. -/
  | headerReadDone (result : ReadResult 256)
  /-- ACTION_READ_DONE, R21. -/
  | actionReadDone (result : ReadResult 256)
  /-- LINK_WORD_READ_DONE, R29. -/
  | linkWordReadDone (result : ReadResult 64)
  /-- SCAN_LINK_READ_DONE, R31. -/
  | scanLinkReadDone (result : ReadResult 64)
  /-- HELD_FLAG_READ_DONE, R126. -/
  | heldFlagReadDone (result : ReadResult 32)
  /-- RETIRE_WRITE_DONE, R34. -/
  | retireWriteDone (result : WriteResult)
  /-- CAPTURE_RECORD_WRITE_DONE, R99. -/
  | captureRecordWriteDone (result : WriteResult)
  /-- BUCKET_SUMMARY_WRITE_DONE, R96. -/
  | bucketSummaryWriteDone (result : WriteResult)
  /-- INCIDENT_WRITE_DONE, R124. -/
  | incidentWriteDone (result : WriteResult)
  /-- RESULT_WRITE_DONE, R140. -/
  | resultWriteDone (result : WriteResult)
  /-- SUMMARY_WRITE_DONE, R142. -/
  | summaryWriteDone (result : WriteResult)
  /-- STATUS_WRITE_DONE, R143. -/
  | statusWriteDone (result : WriteResult)
  /-- DIRECTIVE_SLOT_READ_DONE, R138. -/
  | directiveSlotReadDone (result : ReadResult 256)
  /-- COUNT_ADVANCE, R1; `pins` are the PROBE samples of the new tick (R86), bit n HIGH for probe n. -/
  | countAdvance (pins : Word16)
deriving DecidableEq, Repr

end Sys2Proof
end

