-- ==== Sys2Proof/WellFormed.lean ====
section
/-! DEFINITION. Which commands can be sent: the checks on operands that their types do not make. -/

namespace Sys2Proof

/-- The access is one of those R168 answers with an error response: of another width than 32 bits, or not aligned to 4
bytes. Every aligned offset of the 32-byte window holds a register. -/
def RegisterAccess.bad (a : RegisterAccess) : Bool := !(a.width == 4) || !(a.offset.toNat % 4 == 0)

/-- The four commands of CONTROL (R172). -/
inductive ControlCommand where
  | run
  | stop
  | scan
  | reset
deriving DecidableEq, Repr

/-- The command a CONTROL write carries in bits 3..0, the other bits being ignored (spec 10.6). -/
def controlCommand (value : Word32) : Option ControlCommand :=
  match (value.extractLsb' 0 4).toNat with
  | 1 => some .run
  | 2 => some .stop
  | 3 => some .scan
  | 12 => some .reset
  | _ => none

/-- A directive's sequence number is in 1..65,535 (spec 08). -/
def sequenceWf (sequence : Word16) : Bool := !(sequence == 0)

/-- A command that can be sent. -/
def Instr.wf : Instr → Bool
  | .frameBoundary => true
  | .probeEdge _ _ => true
  | .dispatchEvent => true
  | .returnEdgeExpiry _ => true
  | .deadlineExpiry _ => true
  | .timeoutExpiry _ => true
  | .timeLoRead => true
  | .run _ => true
  | .stop => true
  | .scan => true
  | .reset => true
  | .anchorLoWrite _ => true
  | .anchorHiWrite _ => true
  | .attentionWrite _ => true
  | .attnEnableWrite _ => true
  | .registerWriteNoEffect .control v => (controlCommand v).isNone
  | .registerWriteNoEffect .ident _ => true
  | .registerWriteNoEffect .timeLo _ => true
  | .registerWriteNoEffect .timeHi _ => true
  | .badRegisterAccess a => a.bad
  | .powerOnReset _ => true
  | .startTrack _ => true
  | .drainTrack n _ => sequenceWf n
  | .abortTrack n _ => sequenceWf n
  | .clearTrack n _ => sequenceWf n
  | .setGang n _ _ => sequenceWf n
  | .configureLane n _ _ => sequenceWf n
  | .setFaultPolicy n _ _ _ => sequenceWf n
  | .ackFaults n _ => sequenceWf n
  | .loadTime n _ => sequenceWf n
  | .setFrame n _ => sequenceWf n
  | .headerReadDone _ => true
  | .actionReadDone _ => true
  | .linkWordReadDone _ => true
  | .scanLinkReadDone _ => true
  | .heldFlagReadDone _ => true
  | .retireWriteDone _ => true
  | .captureRecordWriteDone _ => true
  | .bucketSummaryWriteDone _ => true
  | .incidentWriteDone _ => true
  | .resultWriteDone _ => true
  | .summaryWriteDone _ => true
  | .statusWriteDone _ => true
  | .directiveSlotReadDone _ => true
  | .countAdvance _ => true

end Sys2Proof
end

