-- ==== Sys2Proof/Decode.lean ====
section
/-! DEFINITION. From words to commands. No row of the table has bits (log 24); a bus access of the register window spells
the command it is (R168, R172). -/

namespace Sys2Proof

/-- No row of spec/opcode_table.json gives its command any bits, so no word spells one (log 24). -/
def decodeTableWord (_nbits _w : Nat) : Option Instr := none

/-- The command that a CONTROL write is (R172). `pins` are the PROBE levels at the access (R87). -/
def decodeControlWrite (value : Word32) (pins : Word16) : Instr :=
  match controlCommand value with
  | some .run => .run pins
  | some .stop => .stop
  | some .scan => .scan
  | some .reset => .reset
  | none => .registerWriteNoEffect .control value

/-- The command that a write of the register at a word offset is (spec 09, table). -/
def decodeRegisterWrite (word : Nat) (value : Word32) (pins : Word16) : Option Instr :=
  match word with
  | 0 => some (.registerWriteNoEffect .ident value)
  | 1 => some (.anchorLoWrite value)
  | 2 => some (.anchorHiWrite value)
  | 3 => some (decodeControlWrite value pins)
  | 4 => some (.attentionWrite value)
  | 5 => some (.attnEnableWrite value)
  | 6 => some (.registerWriteNoEffect .timeLo value)
  | 7 => some (.registerWriteNoEffect .timeHi value)
  | _ => none

/-- The command that an access of the register window is, if it is one: the reads that change no state are none (log 15);
what they are answered with is `Machine.answerAccess`. -/
def decodeAccess (a : RegisterAccess) (value : Word32) (pins : Word16) : Option Instr :=
  if a.bad then some (.badRegisterAccess a)
  else if a.write then decodeRegisterWrite (a.offset.toNat / 4) value pins
  else if a.offset.toNat / 4 = 6 then some .timeLoRead
  else none

end Sys2Proof
end

