-- ==== Sys2Proof/Config.lean ====
section
/-! DEFINITION. What is fixed for the part, and the one value the spec leaves open. -/

namespace Sys2Proof.Config

/-- FREE VALUE (log 2). What a 64-bit item holds when the exact sum it should take is 2^64 or more. The spec says such a
sum is not formed (spec 01, 1.1: the count does not wrap, every sum is an ordinary unsigned addition) and gives no result. -/
opaque beyond64 : Nat → BitVec 64

/-- IDENT (R169). -/
def ident : Word32 := 0x5C160002#32

/-- Entries of the due queue (R44). -/
def queueCapacity : Nat := 64

/-- Records of one track's open-segment list (R32). -/
def openSegments : Nat := 4

/-- Records of the capture queue (R98). -/
def captureCapacity : Nat := 32

/-- Exchange-area accesses that one event can complete at their grant while ANCHOR is 0; above any number that can wait
(log 18). -/
def serviceBound : Nat := 512

end Sys2Proof.Config
end

