-- ==== Sys2Proof/Machine/State.lean ====
section
/-! DEFINITION. The state of the device, block by block as spec 00 lists the blocks, and its value after reset. -/

namespace Sys2Proof.Machine

/-! ## Named values (spec 10.2) -/

inductive DeviceState where
  | stopped | running | halted
deriving DecidableEq, Repr

/-- The six states of a track (R13). -/
inductive TrackState where
  | off | active | awaiting | parked | closing | halted
deriving DecidableEq, Repr

/-- A lane level or safe level (R65). -/
inductive Level where
  | low | high | float
deriving DecidableEq, Repr

/-- A driven level: a pulse level or a return level (R65, R76). -/
inductive Drive where
  | low | high
deriving DecidableEq, Repr

/-- The twelve fault kinds, in code order (R111). -/
inductive FaultKind where
  | late | laneCollision | notOwner | claimConflict | probeBusy | windowStarved
  | awaitTimeout | captureLoss | badSegment | badAction | busRead | busWrite
deriving DecidableEq, Repr

inductive FaultClass where
  | note | track | gang | device
deriving DecidableEq, Repr

inductive AnchorMode where
  | keep | set | frame
deriving DecidableEq, Repr

inductive LatePolicy where
  | runLate | dropLate
deriving DecidableEq, Repr

/-- The polarity a window or listener admits. -/
inductive EdgeKind where
  | rise | fall | both
deriving DecidableEq, Repr

inductive Polarity where
  | rise | fall
deriving DecidableEq, Repr

inductive TimeoutPolicy where
  | skip | fault
deriving DecidableEq, Repr

inductive RetireOutcome where
  | done | doneWithDrops | cut | skipped | rejected
deriving DecidableEq, Repr

inductive CloseCause where
  | limit | full | deadline | closed | trackEnd | trackHalt | deviceStop | deviceHalt
deriving DecidableEq, Repr

/-- The seven attention causes, in bit order (spec 10.6). -/
inductive Cause where
  | directive | incident | retired | window | mark | trackHalt | deviceHalt
deriving DecidableEq, Repr

/-- The ten directive outcomes, in code order (R151). -/
inductive DirectiveOutcome where
  | done | endedByAbort | endedByHalt | refusedDeviceState | refusedTrackState
  | refusedQuota | refusedInUse | refusedArgument | overlap | unknownKind
deriving DecidableEq, Repr

/-! ## Timebase (spec 01) -/

structure Timebase where
  /-- The count (R1). -/
  count : Instant
  /-- The frame exponent F (R4). -/
  frame : Nat
  /-- The TIME_HI latch (R9, R10). -/
  timeHi : Word32
  /-- The count reached a multiple of 2^F at the present tick and the boundary has not been taken (R5, log 21). -/
  boundary : Bool
deriving DecidableEq, Repr

/-! ## Track engines (spec 02) -/

/-- The copy of the header an engine holds while it fetches the segment (R13). -/
structure FetchContext where
  actionCount : Nat
  anchorMode : AnchorMode
  latePolicy : LatePolicy
  repeatCount : Nat
  /-- LOOP_UNTIL_LINKED. -/
  loop : Bool
  period : Word64
deriving DecidableEq, Repr

/-- One record of the open-segment list (R18, R32). -/
structure OpenSegment where
  address : Address
  notifyOnRetire : Bool
  outstanding : Nat
  dispatched : Word32
  dropped : Word32
  passes : Word32
  fullyFetched : Bool
  skipped : Bool
deriving DecidableEq, Repr

/-- An await outcome that the Probe Bank hands an engine from a listener (R103, R104), on its way to the engine. BUSY comes from
none and is not held. `taken`: an outcome of this tick that the engine took ahead of a directive (R160), with the anchor as it was
before (R106, log 30). -/
inductive AwaitOutcome where
  | edge (time : Instant)
  | timeoutSkip
  | timeoutFault (time : Instant)
  | taken (before : Instant)
deriving DecidableEq, Repr

/-- One track engine (R13). -/
structure Track where
  state : TrackState
  haltKind : Option FaultKind
  quota : Nat
  retireNotifyAll : Bool
  keepTotals : Bool
  queued : Nat
  /-- Current segment address, or the tail while PARKED. -/
  segment : Address
  cursor : Nat
  pass : Word32
  anchor : Instant
  openList : List OpenSegment
  pendingLink : Option Address
  rejectedLink : Option Address
  stallQuota : Bool
  stallSegments : Bool
  stallPort : Bool
  dispatchedTotal : Word32
  droppedTotal : Word32
  fetch : Option FetchContext
  linkSource : Address
  readGeneration : Word32
  /-- The outcome handed over at this tick that has not reached the engine yet, or was taken ahead of a directive of this tick
  (R106, R160). The model's item (log 30). -/
  outcome : Option AwaitOutcome
deriving DecidableEq, Repr

/-! ## Due Queue (spec 03) -/

/-- An action kind with its operands (R43). -/
inductive Action where
  | set
  | clear
  | toggle
  | pulse (level : Drive) (width : Word32)
  | claim
  | release
  | openWindow (probe : ProbeId) (edge : EdgeKind) (bucket : Address) (capacity limit : Nat) (deadlineSpan quiet : Nat)
  | closeWindow (probe : ProbeId)
  | await (probe : ProbeId) (edge : EdgeKind) (timeoutSpan : Nat) (policy : TimeoutPolicy)
  | mark (tag : Word32)
deriving DecidableEq, Repr

/-- The target as written in the action (R24, R47). -/
inductive Target where
  | lane (l : LaneId)
  | gang (g : GangId)
  | lanes (S : LaneSet)
  | none
deriving DecidableEq, Repr

/-- An insertion request (R24). The open-segment reference is the segment's address, which no two records of one list
share (R32). -/
structure Insertion where
  track : TrackId
  action : Action
  due : Instant
  target : Target
  notify : Bool
  policy : LatePolicy
  segment : Address
  pass : Word32
  index : Nat
deriving DecidableEq, Repr

/-- An entry of the due queue (R43). -/
structure Entry where
  track : TrackId
  action : Action
  due : Instant
  sequence : Word64
  lanes : LaneSet
  gang : Option GangId
  segment : Address
  pass : Word32
  index : Nat
  notify : Bool
deriving DecidableEq, Repr

structure DueQueue where
  /-- The entries, first to be dispatched first (R45). -/
  entries : List Entry
  /-- The insertion sequence counter (R45). -/
  insertion : Word64
  markTag : Word32
  markTime : Instant
  /-- The entry whose hand-off is under way and whose dispatch notice is still to be given (R54, R55, log 29). -/
  inHand : Option Entry
deriving DecidableEq, Repr

/-! ## Lane Bank (spec 04) -/

structure ReturnEdge where
  instant : Instant
  level : Drive
deriving DecidableEq, Repr

/-- One lane record (R65). -/
structure Lane where
  level : Level
  owner : Option TrackId
  safe : Level
  returnEdge : Option ReturnEdge
deriving DecidableEq, Repr

/-! ## Probe Bank (spec 05) -/

/-- One edge detector: its reference, HIGH as true (R86, R87), and the edge of the present tick that is still to be
handed to the window and to the listener (log 21). -/
structure Detector where
  reference : Option Bool
  windowEdge : Option Polarity
  listenerEdge : Option Polarity
deriving DecidableEq, Repr

inductive WindowState where
  | free | isOpen | closing
deriving DecidableEq, Repr

/-- The fault context of an OPEN or AWAIT, kept with its window or listener (R88, R101). -/
structure Origin where
  segment : Address
  index : Nat
  pass : Word32
deriving DecidableEq, Repr

/-- One window record (R88). -/
structure Window where
  state : WindowState
  owner : Option TrackId
  edge : EdgeKind
  bucket : Address
  capacity : Nat
  limit : Nat
  deadline : Option Instant
  quiet : Nat
  count : Nat
  suppressed : Word32
  lost : Word32
  firstTime : Option Instant
  lastTime : Option Instant
  openTime : Instant
  closeTime : Instant
  cause : Option CloseCause
  /-- Capture records of this window still in the capture queue. -/
  pending : Nat
  notify : Bool
  origin : Origin
deriving DecidableEq, Repr

/-- One listener (R101). -/
structure Listener where
  armed : Bool
  owner : Option TrackId
  edge : EdgeKind
  timeout : Option Instant
  policy : TimeoutPolicy
  origin : Origin
deriving DecidableEq, Repr

/-- One capture record of the capture queue (R98). -/
structure CaptureRecord where
  probe : ProbeId
  bucket : Address
  index : Nat
  time : Instant
  polarity : Polarity
deriving DecidableEq, Repr

structure ProbeBank where
  detectors : Table 16 Detector
  windows : Table 16 Window
  listeners : Table 16 Listener
  /-- The capture queue, oldest first (R98). -/
  captures : List CaptureRecord
deriving DecidableEq, Repr

/-! ## Fault Collector (spec 06) -/

/-- What a raiser hands over (R110). -/
structure FaultContext where
  track : Option TrackId
  lanes : LaneSet
  probe : Option ProbeId
  segment : Address
  index : Option Nat
  pass : Word32
  time : Instant
deriving DecidableEq, Repr

structure PolicyEntry where
  cls : FaultClass
  masked : Bool
deriving DecidableEq, Repr

/-- The first-fault record (R115). -/
structure FirstFault where
  valid : Bool
  kind : FaultKind
  cls : FaultClass
  sequence : Word64
  context : FaultContext
deriving DecidableEq, Repr

inductive SlotState where
  | free | writing | held
deriving DecidableEq, Repr

/-- The contents of an incident slot (R123). -/
structure Incident where
  sequence : Word32
  kind : FaultKind
  cls : FaultClass
  context : FaultContext
deriving DecidableEq, Repr

structure FaultCollector where
  /-- The policy table, by fault code (R112). -/
  policy : Table 12 PolicyEntry
  /-- The fault word; bit n stands for the kind of code n (R114, spec 10.2). -/
  word : BitVec 12
  first : FirstFault
  sequence : Word64
  lost : Word64
  masked : Word32
  slots : Table 32 SlotState
deriving DecidableEq, Repr

/-! ## Exchange Port (spec 07) -/

/-- A retire record (R34). -/
structure RetireRecord where
  outcome : RetireOutcome
  passes : Word32
  dispatched : Word32
  dropped : Word32
  time : Instant
deriving DecidableEq, Repr

/-- A bucket header summary (R95). -/
structure BucketHeader where
  cause : CloseCause
  probe : ProbeId
  edge : EdgeKind
  count : Nat
  suppressed : Word32
  lost : Word32
  firstTime : Option Instant
  lastTime : Option Instant
  openTime : Instant
  closeTime : Instant
deriving DecidableEq, Repr

/-- A waiting bucket summary write (R95). -/
structure BucketSummary where
  probe : ProbeId
  bucket : Address
  header : BucketHeader
deriving DecidableEq, Repr

/-- A waiting incident write (R123). -/
structure IncidentWrite where
  slot : SlotId
  incident : Incident
deriving DecidableEq, Repr

/-- A class 3 request of a track (R131). A read carries the read generation at its request (R13) and what its fault
context needs (R145). -/
inductive TrackRequest where
  | header (address : Address) (pass : Word32) (generation : Word32)
  | action (segment : Address) (index : Nat) (pass : Word32) (generation : Word32)
  /-- `mayLoop`: the pass ended under R28 case 2. -/
  | link (segment : Address) (mayLoop : Bool) (pass : Word32) (generation : Word32)
  | retire (segment : Address) (record : RetireRecord)
deriving DecidableEq, Repr

/-- A class 4 read (R137). -/
inductive ScanRead where
  | directiveSlot
  | descriptor (track : TrackId) (sequence : Word16)
  | link (track : TrackId) (tail : Address)
  | heldFlag (slot : SlotId)
deriving DecidableEq, Repr

/-- A directive result (R140). -/
structure DirectiveResult where
  sequence : Word16
  outcome : DirectiveOutcome
  detail : Word32
  time : Instant
deriving DecidableEq, Repr

/-- The fields of the summary block other than generation and time (R141). -/
structure SummaryImage where
  device : DeviceState
  word : BitVec 12
  first : FirstFault
  sequence : Word64
  lost : Word64
  masked : Word32
  skippedScans : Word32
  markTag : Word32
  markTime : Instant
deriving DecidableEq, Repr

/-- The fields of a track status record (R13, spec 10.3). -/
structure StatusImage where
  state : TrackState
  haltKind : Option FaultKind
  quota : Nat
  retireNotifyAll : Bool
  keepTotals : Bool
  queued : Nat
  openSegments : Nat
  stallQuota : Bool
  stallSegments : Bool
  stallPort : Bool
  cursor : Nat
  pass : Word32
  segment : Address
  anchor : Instant
  rejectedLink : Option Address
  pendingLink : Option Address
  dispatchedTotal : Word32
  droppedTotal : Word32
deriving DecidableEq, Repr

/-- A class 5 write (R144). -/
inductive OutWrite where
  | result (r : DirectiveResult)
  | summary (generation : Word32) (time : Instant) (image : SummaryImage)
  | status (track : TrackId) (image : StatusImage)
deriving DecidableEq, Repr

/-- An access of the memory port (R130, R131). -/
inductive PortAccess where
  | bucketSummary (w : BucketSummary)
  | capture (r : CaptureRecord)
  | incident (w : IncidentWrite)
  | track (t : TrackId) (r : TrackRequest)
  | scan (r : ScanRead)
  | out (w : OutWrite)
deriving DecidableEq, Repr

/-- The access in flight, with the address it was granted with. `orphan`: a reset was taken while it was in flight
(R149). -/
structure InFlight where
  access : PortAccess
  address : Address
  orphan : Bool
deriving DecidableEq, Repr

structure Port where
  inFlight : Option InFlight
  /-- Class 1, waiting bucket summaries; the other request of class 1 is the head of the capture queue. -/
  summaries : List BucketSummary
  /-- Class 2. -/
  incidents : List IncidentWrite
  /-- Class 3, by track, oldest first. -/
  tracks : Table 8 (List TrackRequest)
  /-- Class 4. -/
  scanRead : Option ScanRead
  /-- Class 5. -/
  out : List OutWrite
  /-- The last track served in class 3 (R132). -/
  roundRobin : TrackId
  lastSummary : Option SummaryImage
  lastStatus : Table 8 (Option StatusImage)
  generation : Word32
deriving DecidableEq, Repr

/-- The scanner (R134). A scan in progress remembers the slots that were HELD at its start (R137). -/
structure Scanner where
  scan : Option (BitVec 32)
  pending : Bool
  skipped : Word32
deriving DecidableEq, Repr

/-- The DRAIN_TRACK in progress (R138, R153). -/
structure Drain where
  sequence : Word16
  track : TrackId
deriving DecidableEq, Repr

structure DirectiveUnit where
  lastSeen : Word16
  drain : Option Drain
deriving DecidableEq, Repr

/-! ## Control (spec 09) -/

/-- What the bus target answers to an access (R168). -/
inductive Response where
  | written
  | data (value : Word32)
  | error
deriving DecidableEq, Repr

structure Control where
  device : DeviceState
  anchor : Address
  runRefused : Bool
  attention : BitVec 7
  enable : BitVec 7
  /-- RESET_N is held low (R180). -/
  resetLow : Bool
  /-- The answer to the last access of the register window, the model's output field (log 15). -/
  response : Option Response
deriving DecidableEq, Repr

/-! ## The machine -/

/-- Bytes of system memory that the device's own completed writes have stored, by rising address (log 1). -/
abbrev Memory := List Host.Cell

/-- The canonical form: addresses strictly rising. An unlisted address has no value here, so no entry can equal it. -/
abbrev Memory.wf (m : Memory) : Prop := m.Pairwise (fun a b => a.1 < b.1)

structure State where
  timebase : Timebase
  tracks : Table 8 Track
  queue : DueQueue
  lanes : Table 16 Lane
  gangs : Table 6 LaneSet
  probes : ProbeBank
  faults : FaultCollector
  port : Port
  scanner : Scanner
  directives : DirectiveUnit
  control : Control
  memory : Memory
  /-- The commands waiting, first in first out. -/
  pending : List Instr
deriving DecidableEq, Repr

/-- The machine does not stop with a fault: the spec's faults are recorded and the device goes on (R110 to R128). -/
inductive Fault where
deriving DecidableEq, Repr

/-- Why a command has no next state. -/
inductive Refusal where
  /-- A command whose meaning is not written; raised by no arm of exec. Safe. -/
  | notModelled (mnemonic : String)
deriving DecidableEq, Repr

/-! ## Reset values -/

def Timebase.reset : Timebase := ⟨0, 16, 0, false⟩

def Track.reset : Track where
  state := .off
  haltKind := none
  quota := 0
  retireNotifyAll := false
  keepTotals := false
  queued := 0
  segment := 0
  cursor := 0
  pass := 0
  anchor := 0
  openList := []
  pendingLink := none
  rejectedLink := none
  stallQuota := false
  stallSegments := false
  stallPort := false
  dispatchedTotal := 0
  droppedTotal := 0
  fetch := none
  linkSource := 0
  readGeneration := 0
  outcome := none

def DueQueue.reset : DueQueue := ⟨[], 0, 0, 0, none⟩

def Lane.reset : Lane := ⟨.float, none, .float, none⟩

def Origin.reset : Origin := ⟨0, 0, 0⟩

def Detector.reset : Detector := ⟨none, none, none⟩

def Window.reset : Window where
  state := .free
  owner := none
  edge := .rise
  bucket := 0
  capacity := 0
  limit := 0
  deadline := none
  quiet := 0
  count := 0
  suppressed := 0
  lost := 0
  firstTime := none
  lastTime := none
  openTime := 0
  closeTime := 0
  cause := none
  pending := 0
  notify := false
  origin := .reset

def Listener.reset : Listener := ⟨false, none, .rise, none, .skip, .reset⟩

def ProbeBank.reset : ProbeBank :=
  ⟨Table.tab fun _ => .reset, Table.tab fun _ => .reset, Table.tab fun _ => .reset, []⟩

/-- The default classes of R111, by code. -/
def defaultPolicy : Table 12 PolicyEntry :=
  #v[⟨.note, false⟩, ⟨.track, false⟩, ⟨.track, false⟩, ⟨.track, false⟩, ⟨.track, false⟩, ⟨.note, false⟩,
     ⟨.track, false⟩, ⟨.note, false⟩, ⟨.track, false⟩, ⟨.track, false⟩, ⟨.device, false⟩, ⟨.device, false⟩]

/-- "invalid, all fields 0" (R128): the fields whose codes are 0, so that the summary's bytes read 0 (R182, log 19). -/
def FirstFault.reset : FirstFault :=
  ⟨false, .late, .note, 0, ⟨some 0, 0, some 0, 0, some 0, 0, 0⟩⟩

def FaultCollector.reset : FaultCollector where
  policy := defaultPolicy
  word := 0
  first := .reset
  sequence := 0
  lost := 0
  masked := 0
  slots := Table.tab fun _ => .free

def Port.reset : Port where
  inFlight := none
  summaries := []
  incidents := []
  tracks := Table.tab fun _ => []
  scanRead := none
  out := []
  roundRobin := 7
  lastSummary := none
  lastStatus := Table.tab fun _ => none
  generation := 0

def Scanner.reset : Scanner := ⟨none, false, 0⟩

def DirectiveUnit.reset : DirectiveUnit := ⟨0, none⟩

def Control.reset : Control := ⟨.stopped, 0, false, 0, 0, false, none⟩

/-- The device after a power-on reset has been released (R180, log 16), with no command waiting. -/
def State.reset : State where
  timebase := .reset
  tracks := Table.tab fun _ => .reset
  queue := .reset
  lanes := Table.tab fun _ => .reset
  gangs := Table.tab fun _ => 0
  probes := .reset
  faults := .reset
  port := .reset
  scanner := .reset
  directives := .reset
  control := .reset
  memory := []
  pending := []

end Sys2Proof.Machine
end

