-- ==== Sys2Proof/Machine/Flags.lean ====
section
/-! DEFINITION. The numeric codes of the named values (spec 10.2), the fault word, the attention causes, and the two
outputs that follow flags: ATTN_N and the register bits. -/

namespace Sys2Proof.Machine

/-! ## Codes (spec 10.2) -/

def DeviceState.code : DeviceState → Nat
  | .stopped => 0 | .running => 1 | .halted => 2

def TrackState.code : TrackState → Nat
  | .off => 0 | .active => 1 | .awaiting => 2 | .parked => 3 | .closing => 4 | .halted => 5

def Level.code : Level → Nat
  | .low => 0 | .high => 1 | .float => 2

def FaultClass.code : FaultClass → Nat
  | .note => 0 | .track => 1 | .gang => 2 | .device => 3

/-- The code of a fault kind (R111). -/
def FaultKind.code : FaultKind → Fin 12
  | .late => 0 | .laneCollision => 1 | .notOwner => 2 | .claimConflict => 3 | .probeBusy => 4 | .windowStarved => 5
  | .awaitTimeout => 6 | .captureLoss => 7 | .badSegment => 8 | .badAction => 9 | .busRead => 10 | .busWrite => 11

def EdgeKind.code : EdgeKind → Nat
  | .rise => 1 | .fall => 2 | .both => 3

def Polarity.code : Polarity → Nat
  | .rise => 1 | .fall => 2

def RetireOutcome.code : RetireOutcome → Nat
  | .done => 1 | .doneWithDrops => 2 | .cut => 3 | .skipped => 4 | .rejected => 5

def CloseCause.code : CloseCause → Nat
  | .limit => 1 | .full => 2 | .deadline => 3 | .closed => 4 | .trackEnd => 5 | .trackHalt => 6 | .deviceStop => 7
  | .deviceHalt => 8

def DirectiveOutcome.code : DirectiveOutcome → Nat
  | .done => 1 | .endedByAbort => 2 | .endedByHalt => 3 | .refusedDeviceState => 4 | .refusedTrackState => 5
  | .refusedQuota => 6 | .refusedInUse => 7 | .refusedArgument => 8 | .overlap => 9 | .unknownKind => 10

def AnchorMode.ofCode (c : Nat) : Option AnchorMode :=
  match c with
  | 0 => some .keep | 1 => some .set | 2 => some .frame | _ => none

def LatePolicy.ofCode (c : Nat) : Option LatePolicy :=
  match c with
  | 0 => some .runLate | 1 => some .dropLate | _ => none

def EdgeKind.ofCode (c : Nat) : Option EdgeKind :=
  match c with
  | 1 => some .rise | 2 => some .fall | 3 => some .both | _ => none

def TimeoutPolicy.ofCode (c : Nat) : Option TimeoutPolicy :=
  match c with
  | 0 => some .skip | 1 => some .fault | _ => none

def Drive.ofCode (c : Nat) : Option Drive :=
  match c with
  | 0 => some .low | 1 => some .high | _ => none

def Level.ofCode (c : Nat) : Option Level :=
  match c with
  | 0 => some .low | 1 => some .high | 2 => some .float | _ => none

def FaultClass.ofCode (c : Nat) : Option FaultClass :=
  match c with
  | 0 => some .note | 1 => some .track | 2 => some .gang | 3 => some .device | _ => none

/-! ## Levels and polarities -/

def Drive.toLevel : Drive → Level
  | .low => .low | .high => .high

/-- The opposite of a pulse level (R76). -/
def Drive.opposite : Drive → Drive
  | .low => .high | .high => .low

/-- TOGGLE of a level (R75); an owned lane is never FLOAT (R67), and FLOAT is left as it is. -/
def Level.invert : Level → Level
  | .low => .high | .high => .low | .float => .float

/-- R91, R103: RISE admits RISE, FALL admits FALL, BOTH admits either. -/
def EdgeKind.admits : EdgeKind → Polarity → Bool
  | .both, _ => true
  | .rise, .rise => true
  | .fall, .fall => true
  | .rise, .fall => false
  | .fall, .rise => false

/-! ## Lane sets -/

def laneIn (S : LaneSet) (l : LaneId) : Bool := S.getLsbD l.val

/-- The set of the lanes for which `p` holds. -/
def laneSetOf (p : LaneId → Bool) : LaneSet :=
  allLanes.foldl (fun S l => if p l then S ||| (1#16 <<< l.val) else S) 0#16

/-! ## The fault word (R114) -/

/-- The set holding one kind. -/
def FaultKind.bit (k : FaultKind) : BitVec 12 := 1#12 <<< k.code.val

def faultWordHas (w : BitVec 12) (k : FaultKind) : Bool := w.getLsbD k.code.val

/-! ## Attention (R177, R178) -/

/-- The position of a cause in ATTENTION and ATTN_ENABLE (spec 10.6). -/
def Cause.position : Cause → Fin 7
  | .directive => 0 | .incident => 1 | .retired => 2 | .window => 3 | .mark => 4 | .trackHalt => 5 | .deviceHalt => 6

def Cause.bit (c : Cause) : BitVec 7 := 1#7 <<< c.position.val

/-- A cause is raised; one already set stays set (R177). -/
def raiseAttention (c : Cause) (s : State) : State :=
  { s with control := { s.control with attention := s.control.attention ||| c.bit } }

/-- The cause is set in ATTENTION. -/
def State.attends (s : State) (c : Cause) : Bool := s.control.attention.getLsbD c.position.val

/-- The level of the ATTN_N pin, high as true: low while a cause is set with its enable set, and released while RESET_N
is held low (R178). -/
def attnPin (s : State) : Bool :=
  s.control.resetLow || (s.control.attention &&& s.control.enable == 0)

end Sys2Proof.Machine
end

