-- ==== Sys2Proof/Machine/Operands.lean ====
section
/-! DEFINITION. The records the device reads, taken apart by the layouts of spec 10: segment header, action record, link
word, held-flag word, directive slot, track descriptor. A record read is one little-endian integer (R181). -/

namespace Sys2Proof.Machine

/-- The field of `width` bits at a byte offset of a record. -/
def fieldAt {n : Nat} (d : BitVec n) (offset width : Nat) : BitVec width := d.extractLsb' (8 * offset) width

/-- One flag bit of the byte at an offset. -/
def flagAt {n : Nat} (d : BitVec n) (offset bit : Nat) : Bool := d.getLsbD (8 * offset + bit)

/-- The item an index names when it is in range. -/
def indexIn (n : Nat) (i : Nat) : Option (Fin n) := if h : i < n then some ⟨i, h⟩ else none

/-! ## Segment header, host part (spec 10.4) -/

structure Header where
  link : Address
  actionCount : Nat
  anchorMode : Nat
  latePolicy : Nat
  loop : Bool
  notifyOnRetire : Bool
  repeatCount : Nat
  anchorValue : Instant
  period : Word64
deriving DecidableEq, Repr

def Header.ofRecord (d : BitVec 256) : Header where
  link := fieldAt d 0x00 64
  actionCount := (fieldAt d 0x08 8).toNat
  anchorMode := (fieldAt d 0x09 8).toNat
  latePolicy := (fieldAt d 0x0A 8).toNat
  loop := flagAt d 0x0B 0
  notifyOnRetire := flagAt d 0x0B 1
  repeatCount := (fieldAt d 0x0C 16).toNat
  anchorValue := fieldAt d 0x10 64
  period := fieldAt d 0x18 64

/-- More than one pass can be made, so the period is examined (R17). -/
def Header.repeats (h : Header) : Bool := h.loop || decide (0 < h.repeatCount)

/-- The checks of R17 on the header alone; the anchor mode and late policy they decode are the answer. -/
def Header.check (h : Header) : Option (AnchorMode × LatePolicy) :=
  match AnchorMode.ofCode h.anchorMode, LatePolicy.ofCode h.latePolicy with
  | some m, some p =>
    if h.actionCount = 0 then none
    else if h.loop = false ∧ 4095 < h.repeatCount then none
    else if h.repeats = true ∧ (h.period.toNat = 0 ∨ 2 ^ 48 - 1 < h.period.toNat) then none
    else some (m, p)
  | _, _ => none

/-! ## Action record (spec 10.4) -/

inductive TimeMode where
  | abs | rel
deriving DecidableEq, Repr

def TimeMode.ofCode (c : Nat) : Option TimeMode :=
  match c with
  | 0 => some .abs | 1 => some .rel | _ => none

/-- The kind byte. -/
def actionKindByte (d : BitVec 256) : Nat := (fieldAt d 0x00 8).toNat
/-- The time mode: bits 0..1 of the mode byte. -/
def actionTimeMode (d : BitVec 256) : Option TimeMode := TimeMode.ofCode (fieldAt d 0x01 2).toNat
def actionNotify (d : BitVec 256) : Bool := flagAt d 0x01 2
def actionTargetIsGang (d : BitVec 256) : Bool := flagAt d 0x01 3
def actionTime (d : BitVec 256) : Word64 := fieldAt d 0x08 64
/-- The byte at 02h: lane, gang or probe index. -/
def actionIndexByte (d : BitVec 256) : Nat := (fieldAt d 0x02 8).toNat

/-- SET, CLEAR, TOGGLE or PULSE by its code. -/
def isDrivingCode (k : Nat) : Bool := k == 1 || k == 2 || k == 3 || k == 4

/-- The target of a driving action: a lane index 0..15 or a gang index 0..5 (R22). -/
def driveTarget (d : BitVec 256) : Option Target :=
  if actionTargetIsGang d then (indexIn 6 (actionIndexByte d)).map .gang
  else (indexIn 16 (actionIndexByte d)).map .lane

/-- The largest deadline or timeout span. -/
def maxSpan : Nat := 2 ^ 40 - 1

def parsePulse (d : BitVec 256) : Option (Action × Target) :=
  match driveTarget d, Drive.ofCode (fieldAt d 0x03 8).toNat with
  | some t, some p =>
    let width : Word32 := fieldAt d 0x10 32
    if width = 0 then none else some (.pulse p width, t)
  | _, _ => none

def parseOpen (d : BitVec 256) : Option (Action × Target) :=
  match indexIn 16 (actionIndexByte d), EdgeKind.ofCode (fieldAt d 0x03 8).toNat with
  | some p, some e =>
    let quiet := (fieldAt d 0x04 16).toNat
    let capacity := (fieldAt d 0x06 16).toNat
    let bucket : Address := fieldAt d 0x10 64
    let limit := (fieldAt d 0x18 16).toNat
    let span := (fieldAt d 0x1A 48).toNat
    if bucket.toNat % 64 ≠ 0 ∨ bucket = 0 ∨ capacity = 0 ∨ maxSpan < span then none
    else some (.openWindow p e bucket capacity limit span quiet, .none)
  | _, _ => none

def parseAwait (d : BitVec 256) : Option (Action × Target) :=
  match indexIn 16 (actionIndexByte d), EdgeKind.ofCode (fieldAt d 0x03 8).toNat,
      TimeoutPolicy.ofCode (fieldAt d 0x04 8).toNat with
  | some p, some e, some pol =>
    let span := (fieldAt d 0x10 64).toNat
    if maxSpan < span then none else some (.await p e span pol, .none)
  | _, _, _ => none

/-- The operand checks of R22 by kind; the action and its target are the answer. -/
def parseAction (d : BitVec 256) : Option (Action × Target) :=
  match actionKindByte d with
  | 1 => (driveTarget d).map fun t => (.set, t)
  | 2 => (driveTarget d).map fun t => (.clear, t)
  | 3 => (driveTarget d).map fun t => (.toggle, t)
  | 4 => parsePulse d
  | 5 => some (.claim, .lanes (fieldAt d 0x02 16))
  | 6 => some (.release, .lanes (fieldAt d 0x02 16))
  | 7 => parseOpen d
  | 8 => (indexIn 16 (actionIndexByte d)).map fun p => (.closeWindow p, .none)
  | 9 => parseAwait d
  | 10 => some (.mark (fieldAt d 0x10 32), .none)
  | _ => none

/-- The exact due time of R23, before the limit of R22 is applied to it. -/
def dueSum (m : TimeMode) (time : Word64) (anchor : Instant) (pass : Word32) (period : Word64) : Nat :=
  match m with
  | .rel => anchor.toNat + time.toNat
  | .abs => time.toNat + pass.toNat * period.toNat

/-- The due time, when it does not exceed 2^64−1 (R22, R23). -/
def dueTime (m : TimeMode) (time : Word64) (anchor : Instant) (pass : Word32) (period : Word64) : Option Instant :=
  if dueSum m time anchor pass period < 2 ^ 64 then some (BitVec.ofNat 64 (dueSum m time anchor pass period)) else none

/-- The lane set of a BAD_ACTION context (R22). -/
def badActionLanes (d : BitVec 256) : LaneSet :=
  let k := actionKindByte d
  if k = 5 ∨ k = 6 then fieldAt d 0x02 16
  else if isDrivingCode k = true ∧ actionTargetIsGang d = false ∧ actionIndexByte d < 16 then
    1#16 <<< actionIndexByte d
  else 0

/-- The probe of a BAD_ACTION context (R22). -/
def badActionProbe (d : BitVec 256) : Option ProbeId :=
  let k := actionKindByte d
  if k = 7 ∨ k = 8 ∨ k = 9 then indexIn 16 (actionIndexByte d) else none

/-! ## Directive slot and track descriptor (spec 10.3) -/

structure DirectiveSlot where
  sequence : Word16
  kind : Byte
  arg1 : Word64
  arg2 : Word64
  arg3 : Word64
deriving DecidableEq, Repr

def DirectiveSlot.ofRecord (d : BitVec 256) : DirectiveSlot where
  sequence := fieldAt d 0x00 16
  kind := fieldAt d 0x02 8
  arg1 := fieldAt d 0x08 64
  arg2 := fieldAt d 0x10 64
  arg3 := fieldAt d 0x18 64

structure Descriptor where
  head : Address
  quota : Nat
  retireNotifyAll : Bool
  keepTotals : Bool
deriving DecidableEq, Repr

def Descriptor.ofRecord (d : BitVec 128) : Descriptor where
  head := fieldAt d 0x00 64
  quota := (fieldAt d 0x08 8).toNat
  retireNotifyAll := flagAt d 0x09 0
  keepTotals := flagAt d 0x09 1

/-- The held flag of an incident slot: bit 0 of offset 00h alone (spec 10.3). -/
def heldFlagOf (d : BitVec 32) : Bool := flagAt d 0x00 0

end Sys2Proof.Machine
end

