-- ==== Sys2Proof/Machine/Records.lean ====
section
/-! DEFINITION. The records the device writes, byte by byte (spec 10.3 to 10.5): little-endian fields, 0 in every
reserved byte (R181), FFh for an absent index (R182). -/

namespace Sys2Proof.Machine

/-- The `n` low bytes of a number, least significant first (R181). -/
def leBytes : Nat → Nat → List Byte
  | 0, _ => []
  | n + 1, v => BitVec.ofNat 8 v :: leBytes n (v / 256)

/-- `n` reserved bytes. -/
def reservedBytes (n : Nat) : List Byte := List.replicate n 0

/-- An index byte, FFh for none (R182). -/
def indexByte {n : Nat} (i : Option (Fin n)) : List Byte :=
  match i with
  | some i => leBytes 1 i.val
  | none => [0xFF#8]

/-- An action index byte, FFh for none (R182). -/
def actionByte (i : Option Nat) : List Byte :=
  match i with
  | some i => leBytes 1 i
  | none => [0xFF#8]

/-- An address or instant field, 0 for none (R182). -/
def wordOrZero (a : Option Word64) : List Byte := leBytes 8 (a.getD 0).toNat

def flagByte (bits : List Bool) : List Byte := leBytes 1 (bits.foldr (fun b n => b.toNat + 2 * n) 0)

/-- Retire record, 32 bytes at 20h of the header. -/
def RetireRecord.bytes (r : RetireRecord) : List Byte :=
  leBytes 1 r.outcome.code ++ reservedBytes 3 ++ leBytes 4 r.passes.toNat ++ leBytes 4 r.dispatched.toNat ++
  leBytes 4 r.dropped.toNat ++ leBytes 8 r.time.toNat ++ reservedBytes 8

/-- Capture record, 16 bytes. -/
def CaptureRecord.bytes (r : CaptureRecord) : List Byte :=
  leBytes 8 r.time.toNat ++ leBytes 2 r.index ++ leBytes 1 r.polarity.code ++ leBytes 1 r.probe.val ++ reservedBytes 4

/-- Bucket header, 64 bytes; first and last time 0 when the count is 0 (R95). -/
def BucketHeader.bytes (h : BucketHeader) : List Byte :=
  leBytes 1 h.cause.code ++ leBytes 1 h.probe.val ++ leBytes 1 h.edge.code ++ reservedBytes 1 ++
  leBytes 2 h.count ++ reservedBytes 2 ++ leBytes 4 h.suppressed.toNat ++ leBytes 4 h.lost.toNat ++
  wordOrZero h.firstTime ++ wordOrZero h.lastTime ++ leBytes 8 h.openTime.toNat ++ leBytes 8 h.closeTime.toNat ++
  reservedBytes 16

/-- Incident slot, 32 bytes; the held flag is written as 01h. -/
def Incident.bytes (i : Incident) : List Byte :=
  [0x01#8] ++ leBytes 1 i.kind.code.val ++ leBytes 1 i.cls.code ++ indexByte i.context.track ++
  leBytes 4 i.sequence.toNat ++ indexByte i.context.probe ++ actionByte i.context.index ++
  leBytes 2 i.context.lanes.toNat ++ leBytes 4 i.context.pass.toNat ++ leBytes 8 i.context.segment.toNat ++
  leBytes 8 i.context.time.toNat

/-- Directive result, 16 bytes. -/
def DirectiveResult.bytes (r : DirectiveResult) : List Byte :=
  leBytes 2 r.sequence.toNat ++ leBytes 1 r.outcome.code ++ reservedBytes 1 ++ leBytes 4 r.detail.toNat ++
  leBytes 8 r.time.toNat

/-- The first-fault fields of the summary, offsets 38h to 5Fh. -/
def FirstFault.bytes (f : FirstFault) : List Byte :=
  leBytes 8 f.sequence.toNat ++ leBytes 1 f.kind.code.val ++ leBytes 1 f.cls.code ++ indexByte f.context.track ++
  indexByte f.context.probe ++ leBytes 2 f.context.lanes.toNat ++ actionByte f.context.index ++ reservedBytes 1 ++
  leBytes 4 f.context.pass.toNat ++ reservedBytes 4 ++ leBytes 8 f.context.segment.toNat ++
  leBytes 8 f.context.time.toNat

/-- Summary block, 128 bytes. -/
def summaryBytes (generation : Word32) (time : Instant) (i : SummaryImage) : List Byte :=
  leBytes 4 generation.toNat ++ leBytes 1 i.device.code ++ flagByte [i.first.valid] ++ reservedBytes 2 ++
  leBytes 8 time.toNat ++ leBytes 2 i.word.toNat ++ reservedBytes 2 ++ leBytes 4 i.masked.toNat ++
  leBytes 8 i.sequence.toNat ++ leBytes 8 i.lost.toNat ++ leBytes 4 i.skippedScans.toNat ++
  leBytes 4 i.markTag.toNat ++ leBytes 8 i.markTime.toNat ++ i.first.bytes ++ reservedBytes 32

/-- Track status record, 64 bytes. -/
def StatusImage.bytes (i : StatusImage) : List Byte :=
  leBytes 1 i.state.code ++ indexByte (i.haltKind.map FaultKind.code) ++ leBytes 1 i.quota ++
  flagByte [i.retireNotifyAll, i.keepTotals] ++ leBytes 1 i.queued ++ leBytes 1 i.openSegments ++
  flagByte [i.stallQuota, i.stallSegments, i.stallPort] ++
  flagByte [i.rejectedLink.isSome, i.pendingLink.isSome] ++ leBytes 1 i.cursor ++ reservedBytes 3 ++
  leBytes 4 i.pass.toNat ++ leBytes 8 i.segment.toNat ++ leBytes 8 i.anchor.toNat ++ wordOrZero i.rejectedLink ++
  wordOrZero i.pendingLink ++ leBytes 4 i.dispatchedTotal.toNat ++ leBytes 4 i.droppedTotal.toNat ++ reservedBytes 8

/-- The record of a class 5 write. -/
def OutWrite.bytes : OutWrite → List Byte
  | .result r => r.bytes
  | .summary g t i => summaryBytes g t i
  | .status _ i => i.bytes

/-- What an access stores when it is a write; a read stores nothing. -/
def PortAccess.bytes : PortAccess → List Byte
  | .bucketSummary w => w.header.bytes
  | .capture r => r.bytes
  | .incident w => w.incident.bytes
  | .track _ (.retire _ r) => r.bytes
  | .track _ (.header ..) => []
  | .track _ (.action ..) => []
  | .track _ (.link ..) => []
  | .scan _ => []
  | .out w => w.bytes

end Sys2Proof.Machine
end

