-- ==== Sys2Proof/Machine/Ops.lean ====
section
/-! DEFINITION. The shared operations over the state's items: 64-bit sums, the memory image, the block modifiers, now and
frames, waiting requests, and the forming of class 5 writes. -/

namespace Sys2Proof.Machine

/-! ## 64-bit sums -/

/-- An instant, address or count plus a number: the exact sum where it fits in 64 bits, a free value beyond (log 2). -/
def add64 (a : Word64) (n : Nat) : Word64 :=
  if a.toNat + n < 2 ^ 64 then BitVec.ofNat 64 (a.toNat + n) else Config.beyond64 (a.toNat + n)

/-- Plus, held at 2^64−1 (R28, R76). -/
def add64Held (a : Word64) (n : Nat) : Word64 :=
  if a.toNat + n < 2 ^ 64 then BitVec.ofNat 64 (a.toNat + n) else BitVec.allOnes 64

/-- One more, saturating at 2^32−1 (R24, R88). -/
def succ32Sat (a : Word32) : Word32 := if a = BitVec.allOnes 32 then a else a + 1

/-! ## The memory image (log 1) -/

/-- One byte stored. -/
def Memory.put : Memory → Nat → Byte → Memory
  | [], a, b => [(a, b)]
  | c :: m, a, b =>
    if a < c.1 then (a, b) :: c :: m else if a = c.1 then (a, b) :: m else c :: Memory.put m a b

/-- The byte the device's own writes have left at an address, if any. -/
def Memory.read : Memory → Nat → Option Byte
  | [], _ => none
  | c :: m, a => if a = c.1 then some c.2 else Memory.read m a

/-- The bytes of a record stored from an address upward (R181). -/
def Memory.store : Memory → Address → List Byte → Memory
  | m, _, [] => m
  | m, a, b :: bs => Memory.store (m.put a.toNat b) (add64 a 1) bs

/-! ## Block modifiers -/

def State.modTrack (s : State) (t : TrackId) (f : Track → Track) : State := { s with tracks := s.tracks.modify t f }
def State.modPort (s : State) (f : Port → Port) : State := { s with port := f s.port }
def State.modQueue (s : State) (f : DueQueue → DueQueue) : State := { s with queue := f s.queue }
def State.modProbes (s : State) (f : ProbeBank → ProbeBank) : State := { s with probes := f s.probes }
def State.modFaults (s : State) (f : FaultCollector → FaultCollector) : State := { s with faults := f s.faults }
def State.modControl (s : State) (f : Control → Control) : State := { s with control := f s.control }
def State.modWindow (s : State) (p : ProbeId) (f : Window → Window) : State :=
  s.modProbes fun b => { b with windows := b.windows.modify p f }
def State.modListener (s : State) (p : ProbeId) (f : Listener → Listener) : State :=
  s.modProbes fun b => { b with listeners := b.listeners.modify p f }

/-- Now: the count at the event (R3). -/
def State.now (s : State) : Instant := s.timebase.count

/-- The count advances: RUNNING or HALTED (R1), and RESET_N is not held low (R180). -/
def State.counting (s : State) : Bool := !s.control.resetLow && !(s.control.device == .stopped)

/-! ## Frames (R4 to R6) -/

/-- The start of the frame that holds `t`. -/
def frameStart (frame : Nat) (t : Instant) : Nat := t.toNat / 2 ^ frame * 2 ^ frame

/-- The next frame boundary after `t` (R6). -/
def nextBoundary (frame : Nat) (t : Instant) : Instant :=
  add64 t (frameStart frame t + 2 ^ frame - t.toNat)

/-! ## Waiting requests (R131) -/

/-- A request joins its track's list in class 3. -/
def requestTrack (t : TrackId) (r : TrackRequest) (s : State) : State :=
  s.modPort fun p => { p with tracks := p.tracks.modify t (· ++ [r]) }

def requestScanRead (r : ScanRead) (s : State) : State := s.modPort fun p => { p with scanRead := some r }

def requestIncident (w : IncidentWrite) (s : State) : State :=
  s.modPort fun p => { p with incidents := p.incidents ++ [w] }

def requestSummaryOf (w : BucketSummary) (s : State) : State :=
  s.modPort fun p => { p with summaries := p.summaries ++ [w] }

/-! ## Class 5 writes (R140 to R144) -/

/-- The summary's fields as they stand (R141). -/
def summaryImage (s : State) : SummaryImage where
  device := s.control.device
  word := s.faults.word
  first := s.faults.first
  sequence := s.faults.sequence
  lost := s.faults.lost
  masked := s.faults.masked
  skippedScans := s.scanner.skipped
  markTag := s.queue.markTag
  markTime := s.queue.markTime

/-- A track's status fields as its engine holds them (R13, R143). -/
def statusImage (k : Track) : StatusImage where
  state := k.state
  haltKind := k.haltKind
  quota := k.quota
  retireNotifyAll := k.retireNotifyAll
  keepTotals := k.keepTotals
  queued := k.queued
  openSegments := k.openList.length
  stallQuota := k.stallQuota
  stallSegments := k.stallSegments
  stallPort := k.stallPort
  cursor := k.cursor
  pass := k.pass
  segment := k.segment
  anchor := k.anchor
  rejectedLink := k.rejectedLink
  pendingLink := k.pendingLink
  dispatchedTotal := k.dispatchedTotal
  droppedTotal := k.droppedTotal

def OutWrite.isSummary : OutWrite → Bool
  | .summary .. => true
  | .result _ => false
  | .status .. => false

def OutWrite.isResult : OutWrite → Bool
  | .result _ => true
  | .summary .. => false
  | .status .. => false

def OutWrite.isStatusOf (t : TrackId) : OutWrite → Bool
  | .status u _ => u == t
  | .result _ => false
  | .summary .. => false

/-- A waiting summary takes the new fields and keeps its generation (R142). -/
def OutWrite.refreshSummary (now : Instant) (i : SummaryImage) : OutWrite → OutWrite
  | .summary g _ _ => .summary g now i
  | .result r => .result r
  | .status t j => .status t j

/-- A waiting status write of `t` takes the new contents (R143). -/
def OutWrite.refreshStatus (t : TrackId) (i : StatusImage) : OutWrite → OutWrite
  | .status u j => if u = t then .status t i else .status u j
  | .result r => .result r
  | .summary g n j => .summary g n j

/-- The port forms a summary write (R142). -/
def formSummary (s : State) : State :=
  let i := summaryImage s
  s.modPort fun p =>
    if p.out.any OutWrite.isSummary then
      { p with out := p.out.map (OutWrite.refreshSummary s.now i), lastSummary := some i }
    else
      { p with out := p.out ++ [.summary (p.generation + 1) s.now i], generation := p.generation + 1,
               lastSummary := some i }

/-- The port forms a status write for a track (R143). -/
def formStatus (t : TrackId) (s : State) : State :=
  let i := statusImage (s.tracks.get t)
  s.modPort fun p =>
    { p with
      out := if p.out.any (OutWrite.isStatusOf t) then p.out.map (OutWrite.refreshStatus t i) else p.out ++ [.status t i]
      lastStatus := p.lastStatus.put t (some i) }

/-- The port forms a result write (R140). -/
def formResult (sequence : Word16) (outcome : DirectiveOutcome) (detail : Word32) (s : State) : State :=
  s.modPort fun p => { p with out := p.out ++ [.result ⟨sequence, outcome, detail, s.now⟩] }

/-- The drain in progress, if it is of track `t`, is answered and the in-progress record emptied (R153, R157). -/
def answerDrain (t : TrackId) (outcome : DirectiveOutcome) (detail : Word32) (s : State) : State :=
  match s.directives.drain with
  | some d =>
    if d.track = t then
      formResult d.sequence outcome detail { s with directives := { s.directives with drain := none } }
    else s
  | none => s

/-! ## Track items -/

/-- The engine enters a state; leaving ACTIVE clears the stall flags (R15). -/
def Track.enter (st : TrackState) (k : Track) : Track :=
  if st = .active then { k with state := st }
  else { k with state := st, stallQuota := false, stallSegments := false, stallPort := false }

def setTrackState (t : TrackId) (st : TrackState) (s : State) : State := s.modTrack t (Track.enter st)

/-- The open record of the segment at an address, if the list holds it (R32). -/
def Track.findOpen (k : Track) (a : Address) : Option OpenSegment := k.openList.find? fun r => r.address == a

/-- The record of the segment at an address changed. -/
def Track.modOpen (a : Address) (f : OpenSegment → OpenSegment) (k : Track) : Track :=
  { k with openList := k.openList.map fun r => if r.address = a then f r else r }

/-- Neither OFF nor HALTED: the states in which a track holds entries, lanes and windows (spec 2.2). -/
def TrackState.alive : TrackState → Bool
  | .off => false | .halted => false | .active => true | .awaiting => true | .parked => true | .closing => true

/-- The quotas of the tracks not in OFF (R44). -/
def usedQuota (s : State) : Nat :=
  (allTracks.map fun t => if (s.tracks.get t).state = .off then 0 else (s.tracks.get t).quota).sum

/-- The room for a new quota (R151, R155). -/
def quotaRoom (s : State) : Nat := Config.queueCapacity - usedQuota s

end Sys2Proof.Machine
end

