-- ==== Sys2Proof/Machine/Lanes.lean ====
section
/-! DEFINITION. The Lane Bank (spec 04): what each hand-off and request does to the sixteen lane records. Pure functions
of the lane records; the faults they lead to are raised by the callers. -/

namespace Sys2Proof.Machine

abbrev LaneBank := Table 16 Lane

/-- Lane `l` is owned by track `t`. -/
def LaneBank.owns (b : LaneBank) (t : TrackId) (l : LaneId) : Bool := (b.get l).owner == some t

/-- The lanes of `S` not owned by `t`, by another track or by none (R72, R73). -/
def LaneBank.notOwned (b : LaneBank) (t : TrackId) (S : LaneSet) : LaneSet :=
  laneSetOf fun l => laneIn S l && !b.owns t l

/-- The lanes of `S` owned by tracks other than `t` (R70, R71). -/
def LaneBank.ownedByOthers (b : LaneBank) (t : TrackId) (S : LaneSet) : LaneSet :=
  laneSetOf fun l => laneIn S l && (b.get l).owner.isSome && !b.owns t l

/-- Every lane of a set changed by `f`. -/
def LaneBank.onSet (b : LaneBank) (S : LaneSet) (f : Lane → Lane) : LaneBank :=
  Table.tab fun l => if laneIn S l then f (b.get l) else b.get l

/-- The return edge of a lane expires if the count has reached its instant (R78). -/
def Lane.expire (now : Instant) (k : Lane) : Lane :=
  match k.returnEdge with
  | some r => if r.instant ≤ now then { k with level := r.level.toLevel, returnEdge := none } else k
  | none => k

/-- A lane loses its owner: safe level, no return edge (R72, R83). -/
def Lane.free (k : Lane) : Lane := { k with owner := none, level := k.safe, returnEdge := none }

/-- A lane claimed by `t` (R70): an unowned lane takes the owner and the safe level, LOW where that is FLOAT. -/
def Lane.claim (t : TrackId) (k : Lane) : Lane :=
  match k.owner with
  | some _ => k
  | none => { k with owner := some t, level := if k.safe = .float then .low else k.safe, returnEdge := none }

/-- A lane driven to a level, its return edge cancelled (R74). -/
def Lane.drive (v : Level) (k : Lane) : Lane := { k with level := v, returnEdge := none }

/-- TOGGLE of a lane (R75). -/
def Lane.toggle (k : Lane) : Lane := { k with level := k.level.invert, returnEdge := none }

/-- PULSE of a lane (R76): the instant of the return edge is held at 2^64−1. -/
def Lane.pulse (p : Drive) (width : Word32) (d : Instant) (k : Lane) : Lane :=
  { k with level := p.toLevel, returnEdge := some ⟨add64Held d width.toNat, p.opposite⟩ }

/-- CONFIGURE_LANE of an unowned lane (R68). -/
def Lane.configure (v : Level) (k : Lane) : Lane := { k with safe := v, level := v }

/-- The return edges due on the lanes of a set are applied before a hand-off (R69). -/
def LaneBank.expireOn (b : LaneBank) (S : LaneSet) (now : Instant) : LaneBank := b.onSet S (Lane.expire now)

/-- A release request: every lane of `t` is freed (R83). -/
def LaneBank.releaseAll (b : LaneBank) (t : TrackId) : LaneBank :=
  Table.tab fun l => if b.owns t l then (b.get l).free else b.get l

/-- A CLAIM: all or nothing (R70, R71). The second item is the offending set. -/
def LaneBank.takeClaim (b : LaneBank) (t : TrackId) (S : LaneSet) : LaneBank × LaneSet :=
  let off := b.ownedByOthers t S
  if off = 0 then (b.onSet S (Lane.claim t), 0) else (b, off)

/-- A RELEASE or a drive: acts on the whole set when `t` owns all of it, or not at all (R72, R73). -/
def LaneBank.ifOwned (b : LaneBank) (t : TrackId) (S : LaneSet) (f : Lane → Lane) : LaneBank × LaneSet :=
  let off := b.notOwned t S
  if off = 0 then (b.onSet S f, 0) else (b, off)

/-- The tracks that own a lane of a gang whose lane set meets `C` (R82). -/
def gangScope (b : LaneBank) (gangs : Table 6 LaneSet) (C : LaneSet) (t : TrackId) : Bool :=
  allGangs.any fun g => !((gangs.get g) &&& C == 0) && allLanes.any fun l => laneIn (gangs.get g) l && b.owns t l

/-- Some gang's lane set meets `C` (R117). -/
def gangMeets (gangs : Table 6 LaneSet) (C : LaneSet) : Bool :=
  allGangs.any fun g => !((gangs.get g) &&& C == 0)

def releaseLanes (t : TrackId) (s : State) : State := { s with lanes := LaneBank.releaseAll s.lanes t }

/-- The level a lane holds for its pin; every pin floats while RESET_N is held low (R65, R66). The pin shows it where no
further event is taken at the tick: `tickPin` is the pin of a tick and `pinRun` the pin of a run. -/
def lanePin (s : State) (l : LaneId) : Level := if s.control.resetLow then .float else (s.lanes.get l).level

end Sys2Proof.Machine
end

