-- ==== Sys2Proof/Machine/Probes.lean ====
section
/-! DEFINITION. The Probe Bank's windows (spec 05): closing, bucket summaries, and the close and disarm requests. -/

namespace Sys2Proof.Machine

/-- The bucket header of a window at its summary request (R95). -/
def Window.header (p : ProbeId) (w : Window) (cause : CloseCause) : BucketHeader where
  cause := cause
  probe := p
  edge := w.edge
  count := w.count
  suppressed := w.suppressed
  lost := w.lost
  firstTime := w.firstTime
  lastTime := w.lastTime
  openTime := w.openTime
  closeTime := w.closeTime

/-- A CLOSING window whose records have all left the queue has its summary requested (R94, R95). -/
def requestBucketSummary (p : ProbeId) (s : State) : State :=
  let w := s.probes.windows.get p
  match w.cause with
  | some c => requestSummaryOf ⟨p, w.bucket, w.header p c⟩ s
  | none => s

/-- An OPEN window closes with a cause at a time; any other window is unchanged (R94). -/
def closeWindow (p : ProbeId) (cause : CloseCause) (time : Instant) (s : State) : State :=
  if (s.probes.windows.get p).state = .isOpen then
    let s := s.modWindow p fun w => { w with state := .closing, cause := some cause, closeTime := time }
    if (s.probes.windows.get p).pending = 0 then requestBucketSummary p s else s
  else s

/-- A close request of a track (R107). -/
def closeWindowsOf (t : TrackId) (cause : CloseCause) (s : State) : State :=
  allProbes.foldl
    (fun s p => if (s.probes.windows.get p).owner = some t then closeWindow p cause s.now s else s) s

/-- A listener becomes IDLE (R103, R104, R106). -/
def Listener.disarm (k : Listener) : Listener := { k with armed := false, owner := none, timeout := none }

/-- The Probe Bank's part of a disarm request of a track: the listener it armed becomes IDLE, with no outcome (R106). The
engine's part, an outcome of the same tick that is not taken or the anchor before one that was, is in stopFetch. -/
def disarmOf (t : TrackId) (s : State) : State :=
  s.modProbes fun b =>
    { b with listeners := Table.tab fun p =>
        if (b.listeners.get p).armed = true ∧ (b.listeners.get p).owner = some t then (b.listeners.get p).disarm
        else b.listeners.get p }

/-- The close-all request of a device halt (R108). -/
def closeAll (s : State) : State :=
  let s := allProbes.foldl (fun s p => closeWindow p .deviceHalt s.now s) s
  s.modProbes fun b =>
    { b with listeners := Table.tab fun p =>
        if (b.listeners.get p).armed = true then (b.listeners.get p).disarm else b.listeners.get p }

end Sys2Proof.Machine
end

