-- ==== Sys2Proof/Machine/Tracks.lean ====
section
/-! DEFINITION. Track engines, the part that raises no fault (spec 02): fetch requests, retirement, notices, and the
three ways a track ends: drain, abort, halt. -/

namespace Sys2Proof.Machine

/-! ## Fetch requests -/

/-- A header read of the current segment address is requested (R16). -/
def requestHeader (t : TrackId) (s : State) : State :=
  let k := s.tracks.get t
  (requestTrack t (.header k.segment k.pass k.readGeneration) s).modTrack t fun k => { k with stallPort := true }

/-- The read of the action at the cursor is requested (R21). -/
def requestAction (t : TrackId) (s : State) : State :=
  let k := s.tracks.get t
  (requestTrack t (.action k.segment k.cursor k.pass k.readGeneration) s).modTrack t
    fun k => { k with stallPort := true }

/-- The read of the current segment's link word is requested (R29). -/
def requestLink (t : TrackId) (mayLoop : Bool) (s : State) : State :=
  let k := s.tracks.get t
  (requestTrack t (.link k.segment mayLoop k.pass k.readGeneration) s).modTrack t
    fun k => { k with stallPort := true }

/-- No stall flag is set, so no read of the engine's own is in flight (R15, R21). -/
def Track.unstalled (k : Track) : Bool := !k.stallQuota && !k.stallSegments && !k.stallPort

/-- The next action is read, or the quota stalls the track (R15, R21). -/
def fetchNext (t : TrackId) (s : State) : State :=
  let k := s.tracks.get t
  if k.state = .active ∧ k.fetch.isSome = true ∧ k.unstalled = true then
    if k.queued < k.quota then requestAction t s else s.modTrack t fun k => { k with stallQuota := true }
  else s

/-- Entry into the segment at `a`, linked from `source`, 0 for a head (R16). -/
def beginEntry (t : TrackId) (a source : Address) (s : State) : State :=
  let s := s.modTrack t fun k => { k with linkSource := source }
  if (s.tracks.get t).openList.length < Config.openSegments then
    requestHeader t (s.modTrack t fun k => { k with segment := a })
  else s.modTrack t fun k => { k with pendingLink := some a, stallSegments := true }

/-! ## Retirement (R34, R35) -/

/-- The outcome of a retirement that is not a cut. -/
def OpenSegment.outcome (r : OpenSegment) : RetireOutcome :=
  if r.skipped then .skipped else if r.dropped = 0 then .done else .doneWithDrops

def OpenSegment.retireRecord (cut : Bool) (now : Instant) (r : OpenSegment) : RetireRecord :=
  ⟨if cut then .cut else r.outcome, r.passes, r.dispatched, r.dropped, now⟩

/-- A pending link gets the room a retirement leaves (R16). -/
def releasePending (t : TrackId) (s : State) : State :=
  match (s.tracks.get t).pendingLink with
  | some a =>
    requestHeader t (s.modTrack t fun k => { k with segment := a, pendingLink := none, stallSegments := false })
  | none => s

/-- A record retires: it leaves the list, its retire write is requested, RETIRED attention is raised where asked for,
and a pending link gets its room (R34, R35, R16). -/
def retireSegment (t : TrackId) (cut : Bool) (r : OpenSegment) (s : State) : State :=
  let s := s.modTrack t fun k => { k with openList := k.openList.filter fun x => !(x.address == r.address) }
  let s := requestTrack t (.retire r.address (r.retireRecord cut s.now)) s
  let s := if r.notifyOnRetire = true ∨ (s.tracks.get t).retireNotifyAll = true then raiseAttention .retired s else s
  releasePending t s

/-- The segment at `a` retires if its record is fully fetched with nothing outstanding (R33, R34). -/
def retireIfDone (t : TrackId) (a : Address) (s : State) : State :=
  match (s.tracks.get t).findOpen a with
  | some r =>
    if r.fullyFetched = true ∧ r.outstanding = 0 then retireSegment t false r s else s
  | none => s

/-- Every record still open retires CUT, in list order (R37, R38, R39). -/
def cutSegments (t : TrackId) (s : State) : State :=
  (s.tracks.get t).openList.foldl (fun s r => retireSegment t true r s) s

/-- The record of the current segment is marked fully fetched, which can retire it (R29). -/
def markFullyFetched (t : TrackId) (s : State) : State :=
  let a := (s.tracks.get t).segment
  retireIfDone t a (s.modTrack t (Track.modOpen a fun r => { r with fullyFetched := true }))

/-! ## Counts (R24, R33) -/

/-- One action of the segment at `a` dropped without having been queued (R22, R24, R146). -/
def countDropped (t : TrackId) (a : Address) (s : State) : State :=
  s.modTrack t fun k =>
    let k := k.modOpen a fun r => { r with dropped := succ32Sat r.dropped }
    { k with droppedTotal := k.droppedTotal + 1 }

/-- RAN_LATE (R24). -/
def countRanLate (t : TrackId) (a : Address) (s : State) : State :=
  s.modTrack t fun k =>
    let k := k.modOpen a fun r => { r with dispatched := succ32Sat r.dispatched }
    { k with dispatchedTotal := k.dispatchedTotal + 1 }

/-- QUEUED (R24). -/
def countQueued (t : TrackId) (a : Address) (s : State) : State :=
  s.modTrack t fun k =>
    let k := k.modOpen a fun r => { r with outstanding := r.outstanding + 1 }
    { k with queued := k.queued + 1 }

/-- The counts of a dispatch notice (R33). -/
def countDispatched (t : TrackId) (a : Address) (s : State) : State :=
  s.modTrack t fun k =>
    let k := k.modOpen a fun r =>
      { r with outstanding := r.outstanding - 1, dispatched := succ32Sat r.dispatched }
    { k with queued := k.queued - 1, dispatchedTotal := k.dispatchedTotal + 1 }

/-- The counts of a purge notice (R33). -/
def countPurged (t : TrackId) (a : Address) (s : State) : State :=
  s.modTrack t fun k =>
    let k := k.modOpen a fun r => { r with outstanding := r.outstanding - 1, dropped := succ32Sat r.dropped }
    { k with queued := k.queued - 1, droppedTotal := k.droppedTotal + 1 }

/-! ## Ending a track -/

/-- The entries of a track, in queue order. -/
def State.entriesOf (s : State) (t : TrackId) : List Entry := s.queue.entries.filter fun e => e.track == t

/-- A purge: every entry of the track leaves the queue, each with its notice (R60). No record retires by the ordinary
rule during it (R38). -/
def purgeTrack (t : TrackId) (s : State) : State :=
  let mine := s.entriesOf t
  mine.foldl (fun s e => countPurged t e.segment s)
    (s.modQueue fun q => { q with entries := q.entries.filter fun e => !(e.track == t) })

/-- The anchor a disarm request leaves: the one before the await resolved, where that was at this tick (R106). An outcome that
has not reached the engine has not moved it. -/
def Track.disarmedAnchor (k : Track) : Instant :=
  match k.outcome with
  | some (.taken before) => before
  | _ => k.anchor

/-- The engine's own part of a drain's acceptance, an abort or a halt: stall flags and pending link cleared, any read marked for
discard (R36, R38 step 1). It leaves AWAITING, so an outcome of this tick that has not reached it has no effect (R106, R26). -/
def stopFetch (t : TrackId) (s : State) : State :=
  s.modTrack t fun k =>
    { k with
      stallQuota := false, stallSegments := false, stallPort := false, pendingLink := none
      readGeneration := k.readGeneration + 1, anchor := k.disarmedAnchor, outcome := none }

/-- The entry in hand, when it is of this track, is noticed as dispatched before the purge (R55). The notice only counts:
in CLOSING it ends no drain, even as the last one, so the drain ends by the halt, the model's choice (log 32). -/
def noticeInHand (t : TrackId) (s : State) : State :=
  match s.queue.inHand with
  | some e =>
    if e.track = t then countDispatched t e.segment (s.modQueue fun q => { q with inHand := none }) else s
  | none => s

/-- Steps 1 to 5 of an abort and steps 2 to 5 of a halt (R38, R39): fetching stops, the entries are purged, the open
records are cut, the windows close with `cause`, the listener is disarmed, the lanes are released. -/
def stripTrack (t : TrackId) (cause : CloseCause) (s : State) : State :=
  releaseLanes t (disarmOf t (closeWindowsOf t cause (cutSegments t (purgeTrack t (noticeInHand t (stopFetch t s))))))

/-- An abort (R38, R40). `detail` is the detail of the ENDED_BY_ABORT result of a drain it ends (R157). The status write joins
class 5 before that result, the model's choice (log 36). -/
def abortTrack (t : TrackId) (cause : CloseCause) (detail : Word32) (s : State) : State :=
  answerDrain t .endedByAbort detail (formStatus t (setTrackState t .off (stripTrack t cause s)))

/-- A halt request (R39). The status write joins class 5 before the ENDED_BY_HALT result of a drain it ends, the model's choice
(log 36). -/
def haltTrack (t : TrackId) (kind : FaultKind) (s : State) : State :=
  if (s.tracks.get t).state.alive = true then
    let s := (stripTrack t .trackHalt s).modTrack t fun k => { k with haltKind := some kind }
    let s := setTrackState t .halted s
    answerDrain t .endedByHalt (BitVec.ofNat 32 kind.code.val) (formStatus t (raiseAttention .trackHalt s))
  else s

/-- The end of a drain (R37): its result carries the number of records cut (R157). The status write joins class 5 before the
result, the model's choice (log 36). -/
def endDrain (t : TrackId) (s : State) : State :=
  let cut := (s.tracks.get t).openList.length
  let s := releaseLanes t (closeWindowsOf t .trackEnd (cutSegments t s))
  answerDrain t .done (BitVec.ofNat 32 cut) (formStatus t (setTrackState t .off s))

/-- A stall on quota ends when the queued count is below the quota (R15, R33). -/
def releaseQuotaStall (t : TrackId) (s : State) : State :=
  let k := s.tracks.get t
  if k.stallQuota = true ∧ k.queued < k.quota then
    fetchNext t (s.modTrack t fun k => { k with stallQuota := false })
  else s

/-- A dispatch notice (R33, R37). -/
def dispatchNotice (t : TrackId) (a : Address) (s : State) : State :=
  let s := retireIfDone t a (releaseQuotaStall t (countDispatched t a s))
  if (s.tracks.get t).state = .closing ∧ (s.tracks.get t).queued = 0 then endDrain t s else s

end Sys2Proof.Machine
end

