-- ==== Sys2Proof/Machine/Faults.lean ====
section
/-! DEFINITION. The Fault Collector (spec 06): taking a fault is one operation, `raiseFault`. -/

namespace Sys2Proof.Machine

/-- A context with nothing but a time (R110). -/
def FaultContext.empty (now : Instant) : FaultContext := ⟨none, 0, none, 0, none, 0, now⟩

/-- TRACK, or NOTE when the context has no track (R117). -/
def trackClass (c : FaultContext) : FaultClass := if c.track.isSome then .track else .note

/-- The class applied (R117). -/
def resolveClass (cls : FaultClass) (c : FaultContext) (s : State) : FaultClass :=
  match cls with
  | .note => .note
  | .track => trackClass c
  | .gang => if gangMeets s.gangs c.lanes then .gang else trackClass c
  | .device => if s.control.device = .running then .device else .note

/-- Halt requests to the tracks of a set, lowest first (R119, log 10). -/
def haltAll (p : TrackId → Bool) (kind : FaultKind) (s : State) : State :=
  allTracks.foldl (fun s t => if p t then haltTrack t kind s else s) s

/-- The device halt (R120). -/
def deviceHalt (kind : FaultKind) (s : State) : State :=
  let s := closeAll (s.modControl fun k => { k with device := .halted })
  formSummary (raiseAttention .deviceHalt (haltAll (fun _ => true) kind s))

/-- The class action (R118, R119, R120). The gang scope is computed once, before any of the halts. -/
def classAction (cls : FaultClass) (kind : FaultKind) (c : FaultContext) (s : State) : State :=
  match cls with
  | .note => s
  | .track =>
    match c.track with
    | some t => haltTrack t kind s
    | none => s
  | .gang => haltAll (fun t => c.track == some t || gangScope s.lanes s.gangs c.lanes t) kind s
  | .device => deviceHalt kind s

/-- The lowest-numbered FREE slot (R123). -/
def freeSlot (s : State) : Option SlotId := allSlots.find? fun n => s.faults.slots.get n == .free

/-- The lost-incident counter rises by one (R116). -/
def countLost (s : State) : State := s.modFaults fun f => { f with lost := add64 f.lost 1 }

/-- Step 6 of R113: the incident takes a slot, or is counted lost when none is FREE (R123) or when the fault takes none
(R124, `slotless`). -/
def assignSlot (i : Incident) (slotless : Bool) (s : State) : State :=
  if slotless then countLost s
  else
    match freeSlot s with
    | some n => requestIncident ⟨n, i⟩ (s.modFaults fun f => { f with slots := f.slots.put n .writing })
    | none => countLost s

/-- Steps 1 to 3 of R113 with the class of step 4: fault word, sequence number, first-fault record. -/
def recordFault (kind : FaultKind) (cls : FaultClass) (c : FaultContext) (s : State) : State :=
  s.modFaults fun f =>
    { f with
      word := f.word ||| kind.bit
      sequence := add64 f.sequence 1
      first := if f.word = 0 then ⟨true, kind, cls, add64 f.sequence 1, c⟩ else f.first }

/-- The collector takes a fault whole (R113). -/
def takeFault (kind : FaultKind) (c : FaultContext) (slotless : Bool) (s : State) : State :=
  let e := s.faults.policy.get kind.code
  if e.masked then s.modFaults fun f => { f with masked := f.masked + 1 }
  else
    let cls := resolveClass e.cls c s
    let s := recordFault kind cls c s
    let i : Incident := ⟨s.faults.sequence.setWidth 32, kind, cls, c⟩
    raiseAttention .incident (assignSlot i slotless (classAction cls kind c s))

/-- A block raises a fault (R110). -/
def raiseFault (kind : FaultKind) (c : FaultContext) (s : State) : State := takeFault kind c false s

end Sys2Proof.Machine
end

