-- ==== Sys2Proof/Machine/Fetch.lean ====
section
/-! DEFINITION. Track engines, the part that reads segments (spec 02): entering, accepting and refusing a header, the end
of a pass, links, and await outcomes. -/

namespace Sys2Proof.Machine

/-! ## Passes (R28) -/

/-- Another pass starts: pass, anchor and cursor (R28). -/
def startPass (t : TrackId) (s : State) : State :=
  s.modTrack t fun k =>
    match k.fetch with
    | some f => { k with pass := k.pass + 1, anchor := add64Held k.anchor f.period.toNat, cursor := 0 }
    | none => k

/-- The end of a pass (R28). -/
def endPass (t : TrackId) (s : State) : State :=
  match (s.tracks.get t).fetch with
  | some f =>
    let s := s.modTrack t (Track.modOpen (s.tracks.get t).segment fun r => { r with passes := succ32Sat r.passes })
    let pass := (s.tracks.get t).pass.toNat
    if f.loop = false ∧ pass < f.repeatCount then fetchNext t (startPass t s)
    else requestLink t (f.loop && decide (pass < 2 ^ 32 - 1)) s
  | none => s

/-- Fetch goes on: the pass ends when the cursor has reached the action count, else the next action is read (R21, R26).
Nothing happens while a stall flag is set or outside ACTIVE. -/
def resumeFetch (t : TrackId) (s : State) : State :=
  let k := s.tracks.get t
  match k.fetch with
  | some f =>
    if k.state = .active ∧ k.unstalled = true then
      if f.actionCount ≤ k.cursor then endPass t s else fetchNext t s
    else s
  | none => s

/-! ## Header (R17 to R20) -/

/-- The header at `a` passes every check of R17. -/
def headerValid (k : Track) (a : Address) (h : Header) : Option (AnchorMode × LatePolicy) :=
  if (k.findOpen a).isSome then none else h.check

/-- The refusal is for a failed check other than re-entry, so a REJECTED record is written (R19). -/
def writesRejected (k : Track) (a : Address) : Bool := !(k.findOpen a).isSome

def rejectedRecord (now : Instant) : RetireRecord := ⟨.rejected, 0, 0, 0, now⟩

/-- The anchor for pass 0 (R18). -/
def entryAnchor (m : AnchorMode) (h : Header) (k : Track) (frame : Nat) (now : Instant) : Instant :=
  match m with
  | .keep => k.anchor
  | .set => h.anchorValue
  | .frame => nextBoundary frame now

/-- A header is accepted (R18). -/
def acceptHeader (t : TrackId) (a : Address) (h : Header) (m : AnchorMode) (p : LatePolicy) (s : State) : State :=
  s.modTrack t fun k =>
    { k with
      openList := k.openList ++ [⟨a, h.notifyOnRetire, 0, 0, 0, 0, false, false⟩]
      fetch := some ⟨h.actionCount, m, p, h.repeatCount, h.loop, h.period⟩
      cursor := 0
      pass := 0
      anchor := entryAnchor m h k s.timebase.frame s.now }

/-- The local consequence of a refused header or failed header read: a head makes the track OFF, any other parks it on
the predecessor (R19, R20). -/
def refuseEntry (t : TrackId) (a : Address) (rejected : Bool) (s : State) : State :=
  let s := if rejected then requestTrack t (.retire a (rejectedRecord s.now)) s else s
  let source := (s.tracks.get t).linkSource
  let s :=
    if source = 0 then setTrackState t .off (s.modTrack t fun k => { k with segment := 0 })
    else setTrackState t .parked (s.modTrack t fun k => { k with segment := source, rejectedLink := some a })
  formStatus t s

/-- The context of a header's or link's fault (R19, R145). -/
def segmentContext (t : TrackId) (a : Address) (pass : Word32) (now : Instant) : FaultContext :=
  ⟨some t, 0, none, a, none, pass, now⟩

/-! ## Links (R29, R31) -/

/-- The track parks on its current segment (R29). -/
def park (t : TrackId) (s : State) : State := formStatus t (setTrackState t .parked s)

/-- A link value taken as at the end of a segment's last pass (R29). -/
def takeLink (t : TrackId) (v : Address) (s : State) : State :=
  let s := markFullyFetched t (s.modTrack t fun k => { k with fetch := none })
  let k := s.tracks.get t
  if v = 0 then park t s
  else if v.toNat % 64 ≠ 0 then
    raiseFault .badSegment (segmentContext t v k.pass s.now) (park t (s.modTrack t fun k => { k with rejectedLink := some v }))
  else beginEntry t v k.segment s

/-- A value read from a parked track's tail link (R31); the caller has checked that the track is PARKED on that tail. -/
def takeScanLink (t : TrackId) (v : Address) (s : State) : State :=
  if v = 0 then s.modTrack t fun k => { k with rejectedLink := none }
  else if (s.tracks.get t).rejectedLink = some v then s
  else formStatus t (takeLink t v (setTrackState t .active (s.modTrack t fun k => { k with rejectedLink := none })))

/-! ## Awaits at the engine (R26, R27) -/

/-- The engine returns from AWAITING, `raise` takes the fault that comes with the outcome, if any, and fetch goes on if the track
is still ACTIVE (R26, log 8). -/
def returnFromAwait (t : TrackId) (raise : State → State) (s : State) : State :=
  formStatus t (resumeFetch t (raise (setTrackState t .active s)))

/-- BUSY (R26): it is taken in AWAITING at the hand-off itself, before the class action of its fault (R102). -/
def takeBusy (t : TrackId) (raise : State → State) (s : State) : State :=
  if (s.tracks.get t).state = .awaiting then returnFromAwait t raise s else raise s

/-- EDGE and TIMEOUT_FAULT (R26): the anchor becomes the time. -/
def takeAnchor (t : TrackId) (time : Instant) (s : State) : State :=
  returnFromAwait t id (s.modTrack t fun k => { k with anchor := time })

/-- TIMEOUT_SKIP: the rest of the segment is abandoned, its record is skipped and fully fetched, which can retire it, and
the link word is read (R27, log 20). -/
def takeSkip (t : TrackId) (s : State) : State :=
  let a := (s.tracks.get t).segment
  let s := setTrackState t .active
    (s.modTrack t (Track.modOpen a fun r => { r with skipped := true, fullyFetched := true }))
  formStatus t (requestLink t false (retireIfDone t a s))

/-- The Probe Bank hands a listener's outcome over (R103, R104). It reaches the engine after every disarm request of its tick,
since R106 has none of them find it taken, or ahead of a START_TRACK or CLEAR_TRACK of the track, which R160 has see the return
(returnFirst, log 30). Outside AWAITING it has no effect (R26). -/
def handOutcome (t : TrackId) (o : AwaitOutcome) (s : State) : State :=
  if (s.tracks.get t).state = .awaiting then s.modTrack t fun k => { k with outcome := some o } else s

/-- TIMEOUT_FAULT is handed over and AWAIT_TIMEOUT raised (R104). A class that halts the track finds the timeout as its anchor:
the outcome is taken before the class action (R26). Else it reaches the engine as the others do. -/
def handTimeoutFault (t : TrackId) (time : Instant) (raise : State → State) (s : State) : State :=
  let k := s.tracks.get t
  if k.state = .awaiting then
    let u := raise (s.modTrack t fun k => { k with anchor := time, outcome := none })
    if (u.tracks.get t).state = .awaiting then
      handOutcome t (.timeoutFault time) (u.modTrack t fun x => { x with anchor := k.anchor })
    else u
  else raise s

/-- An outcome handed over reaches its engine, which takes it in AWAITING (R26). -/
def takeOutcome (t : TrackId) (s : State) : State :=
  match (s.tracks.get t).outcome with
  | some o =>
    let s := s.modTrack t fun k => { k with outcome := none }
    if (s.tracks.get t).state = .awaiting then
      match o with
      | .edge e => takeAnchor t e s
      | .timeoutFault i => takeAnchor t i s
      | .timeoutSkip => takeSkip t s
      | .taken _ => s
    else s
  | none => s

/-- The outcome has not reached its engine. -/
def AwaitOutcome.onItsWay : AwaitOutcome → Bool
  | .edge _ => true
  | .timeoutSkip => true
  | .timeoutFault _ => true
  | .taken _ => false

/-- The track is to return from AWAITING at this tick: an outcome has been handed over and has not reached it. -/
def Track.returning (k : Track) : Bool := k.state == .awaiting && (k.outcome.map AwaitOutcome.onItsWay).getD false

/-- A directive that sends no disarm request looks at a track whose await an earlier event of this tick has resolved: the return
comes first and is taken whole, so the directive's state check sees the track as it leaves it (R160). The anchor before it is kept
for a disarm request that follows at the tick (R106, log 30). -/
def returnFirst (t : TrackId) (s : State) : State :=
  let k := s.tracks.get t
  if k.returning = true then (takeOutcome t s).modTrack t fun x => { x with outcome := some (.taken k.anchor) } else s

end Sys2Proof.Machine
end

