-- ==== Sys2Proof/Machine/Queue.lean ====
section
/-! DEFINITION. The Due Queue (spec 03): hand-off of an action to the block that carries it out, insertion, dispatch. -/

namespace Sys2Proof.Machine

/-! ## Hand-off (R56 to R59) -/

/-- What the queue hands over for a dispatched entry or a run-late action (R56, R57). -/
structure HandOff where
  track : TrackId
  action : Action
  lanes : LaneSet
  segment : Address
  index : Nat
  pass : Word32
  notify : Bool
deriving DecidableEq, Repr

def Entry.handOff (e : Entry) : HandOff := ⟨e.track, e.action, e.lanes, e.segment, e.index, e.pass, e.notify⟩

def HandOff.origin (h : HandOff) : Origin := ⟨h.segment, h.index, h.pass⟩

/-- The fault context of an action (R56). -/
def HandOff.context (h : HandOff) (lanes : LaneSet) (probe : Option ProbeId) (now : Instant) : FaultContext :=
  ⟨some h.track, lanes, probe, h.segment, some h.index, h.pass, now⟩

/-- The Lane Bank's answer: the new records, or the offending lanes and a fault (R85). -/
def finishLanes (h : HandOff) (kind : FaultKind) (r : LaneBank × LaneSet) (s : State) : State :=
  let s := { s with lanes := r.1 }
  if r.2 = 0 then s else raiseFault kind (h.context r.2 none s.now) s

/-- A driving action or RELEASE at the Lane Bank: return edges due now first (R69), then the whole set or nothing. -/
def handLanes (h : HandOff) (f : Lane → Lane) (s : State) : State :=
  finishLanes h .notOwner (LaneBank.ifOwned (LaneBank.expireOn s.lanes h.lanes s.now) h.track h.lanes f) s

/-- A CLAIM at the Lane Bank (R70, R71). -/
def handClaim (h : HandOff) (s : State) : State :=
  finishLanes h .claimConflict (LaneBank.takeClaim (LaneBank.expireOn s.lanes h.lanes s.now) h.track h.lanes) s

/-- The deadline or timeout instant of a span, none for 0 (R89, R102). -/
def spanEnd (d : Instant) (span : Nat) : Option Instant := if span = 0 then none else some (add64 d span)

/-- OPEN at the Probe Bank (R89). -/
def handOpen (h : HandOff) (p : ProbeId) (edge : EdgeKind) (bucket : Address) (capacity limit span quiet : Nat)
    (s : State) : State :=
  if (s.probes.windows.get p).state = .free then
    s.modWindow p fun w =>
      { w with
        state := .isOpen, owner := some h.track, edge := edge, bucket := bucket, capacity := capacity, limit := limit
        deadline := spanEnd s.now span, quiet := quiet, count := 0, suppressed := 0, lost := 0, firstTime := none
        lastTime := none, openTime := s.now, cause := none, pending := 0, notify := h.notify, origin := h.origin }
  else raiseFault .probeBusy (h.context 0 (some p) s.now) s

/-- CLOSE at the Probe Bank (R90). -/
def handClose (h : HandOff) (p : ProbeId) (s : State) : State :=
  let w := s.probes.windows.get p
  if w.state = .isOpen then
    if w.owner = some h.track then closeWindow p .closed s.now s
    else raiseFault .notOwner (h.context 0 (some p) s.now) s
  else s

/-- AWAIT at the Probe Bank (R102). -/
def handAwait (h : HandOff) (p : ProbeId) (edge : EdgeKind) (span : Nat) (policy : TimeoutPolicy) (s : State) : State :=
  if (s.tracks.get h.track).state = .closing then s
  else if (s.probes.listeners.get p).armed = true then
    takeBusy h.track (raiseFault .probeBusy (h.context 0 (some p) s.now)) s
  else
    s.modListener p fun _ => ⟨true, some h.track, edge, spanEnd s.now span, policy, h.origin⟩

/-- MARK, carried out by the queue itself (R58). -/
def handMark (tag : Word32) (s : State) : State :=
  raiseAttention .mark (s.modQueue fun q => { q with markTag := tag, markTime := s.now })

/-- The hand-off of one action to its block, the dispatch instant being now (R56, R57, R58). -/
def handAction (h : HandOff) (s : State) : State :=
  match h.action with
  | .set => handLanes h (Lane.drive .high) s
  | .clear => handLanes h (Lane.drive .low) s
  | .toggle => handLanes h Lane.toggle s
  | .pulse p w => handLanes h (Lane.pulse p w s.now) s
  | .claim => handClaim h s
  | .release => handLanes h Lane.free s
  | .openWindow p e b c l sp q => handOpen h p e b c l sp q s
  | .closeWindow p => handClose h p s
  | .await p e sp pol => handAwait h p e sp pol s
  | .mark tag => handMark tag s

/-- The kinds whose NOTIFY flag raises MARK attention after the hand-off (R59). -/
def Action.notifies : Action → Bool
  | .mark _ => false
  | .openWindow .. => false
  | .set => true
  | .clear => true
  | .toggle => true
  | .pulse _ _ => true
  | .claim => true
  | .release => true
  | .closeWindow _ => true
  | .await .. => true

/-- The effect of NOTIFY (R59). -/
def notifyEffect (h : HandOff) (s : State) : State :=
  if h.notify = true ∧ h.action.notifies = true then raiseAttention .mark s else s

/-! ## Insertion (R46 to R52) -/

def Action.isDriving : Action → Bool
  | .set => true
  | .clear => true
  | .toggle => true
  | .pulse _ _ => true
  | .claim => false
  | .release => false
  | .openWindow .. => false
  | .closeWindow _ => false
  | .await .. => false
  | .mark _ => false

def Action.isAwait : Action → Bool
  | .await .. => true
  | .set => false
  | .clear => false
  | .toggle => false
  | .pulse _ _ => false
  | .claim => false
  | .release => false
  | .openWindow .. => false
  | .closeWindow _ => false
  | .mark _ => false

/-- The probe an action names (R43). -/
def Action.probe : Action → Option ProbeId
  | .openWindow p _ _ _ _ _ _ => some p
  | .closeWindow p => some p
  | .await p _ _ _ => some p
  | .set => none
  | .clear => none
  | .toggle => none
  | .pulse _ _ => none
  | .claim => none
  | .release => none
  | .mark _ => none

/-- The resolved lane set of a target (R47). -/
def resolveTarget (gangs : Table 6 LaneSet) : Target → LaneSet
  | .lane l => 1#16 <<< l.val
  | .gang g => gangs.get g
  | .lanes S => S
  | .none => 0

def Target.gangOf : Target → Option GangId
  | .gang g => some g
  | .lane _ => Option.none
  | .lanes _ => Option.none
  | .none => Option.none

/-- The lanes on which a driving request meets same-time driving entries (R51, R52). -/
def collisionSet (entries : List Entry) (due : Instant) (S : LaneSet) : LaneSet :=
  entries.foldl (fun C e => if e.action.isDriving = true ∧ e.due = due then C ||| (e.lanes &&& S) else C) 0

/-- An entry takes its place: after every entry due no later than it (R45). -/
def insertEntry (e : Entry) : List Entry → List Entry
  | [] => [e]
  | x :: xs => if e.due < x.due then e :: x :: xs else x :: insertEntry e xs

/-- The entry of a request (R43). -/
def Insertion.entry (r : Insertion) (S : LaneSet) (sequence : Word64) : Entry :=
  ⟨r.track, r.action, r.due, sequence, S, r.target.gangOf, r.segment, r.pass, r.index, r.notify⟩

def Insertion.handOff (r : Insertion) (S : LaneSet) : HandOff :=
  ⟨r.track, r.action, S, r.segment, r.index, r.pass, r.notify⟩

/-- An AWAIT answered QUEUED or RAN_LATE puts its track in AWAITING (R25). -/
def enterAwaiting (r : Insertion) (s : State) : State :=
  if r.action.isAwait then formStatus r.track (setTrackState r.track .awaiting s) else s

/-- The context of LATE (R50). -/
def lateContext (r : Insertion) (S : LaneSet) (now : Instant) : FaultContext :=
  (r.handOff S).context S r.action.probe now

/-- RUN_LATE (R48): answer, hand-off with NOTIFY, LATE. A run-late AWAIT that is answered BUSY takes that outcome within its
hand-off, so its next read is requested before LATE is raised, the model's choice (log 8). -/
def runLate (r : Insertion) (S : LaneSet) (s : State) : State :=
  let s := enterAwaiting r (countRanLate r.track r.segment s)
  let s := notifyEffect (r.handOff S) (handAction (r.handOff S) s)
  raiseFault .late (lateContext r S s.now) s

/-- DROP_LATE (R49). -/
def dropLate (r : Insertion) (S : LaneSet) (s : State) : State :=
  raiseFault .late (lateContext r S s.now) (countDropped r.track r.segment s)

/-- A collision (R51, R52). -/
def dropCollided (r : Insertion) (S C : LaneSet) (s : State) : State :=
  raiseFault .laneCollision ((r.handOff S).context C none s.now) (countDropped r.track r.segment s)

/-- A new entry (R46 step 3, R45). -/
def enqueue (r : Insertion) (S : LaneSet) (s : State) : State :=
  let s := s.modQueue fun q =>
    { q with entries := insertEntry (r.entry S q.insertion) q.entries, insertion := add64 q.insertion 1 }
  enterAwaiting r (countQueued r.track r.segment s)

/-- Taking an insertion request (R46). -/
def insertAction (r : Insertion) (s : State) : State :=
  let S := resolveTarget s.gangs r.target
  if r.due ≤ s.now then
    match r.policy with
    | .runLate => runLate r S s
    | .dropLate => dropLate r S s
  else
    let C := if r.action.isDriving then collisionSet s.queue.entries r.due S else 0
    if C = 0 then enqueue r S s else dropCollided r S C s

/-- The request is answered DROPPED, judged before it is taken (R48 to R51). -/
def willDrop (r : Insertion) (s : State) : Bool :=
  if r.due ≤ s.now then r.policy == .dropLate
  else r.action.isDriving && !(collisionSet s.queue.entries r.due (resolveTarget s.gangs r.target) == 0)

/-! ## Dispatch (R53 to R55) -/

/-- Dispatching one entry: removal, hand-off, NOTIFY, notice (R54). The notice is not repeated when the hand-off halted
the entry's own track (R55). -/
def dispatchEntry (e : Entry) (s : State) : State :=
  let s := s.modQueue fun q => { q with entries := q.entries.tail, inHand := some e }
  let s := notifyEffect e.handOff (handAction e.handOff s)
  if s.queue.inHand.isSome then
    dispatchNotice e.track e.segment (s.modQueue fun q => { q with inHand := none })
  else s

/-- The entries due are dispatched one after another, the queue being looked at again each time (R53). -/
def dispatchDue : Nat → State → State
  | 0, s => s
  | n + 1, s =>
    match s.queue.entries with
    | e :: _ => if e.due ≤ s.now then dispatchDue n (dispatchEntry e s) else s
    | [] => s

/-- The dispatch event (R53). Each entry dispatched leaves the queue and none enters, so its length bounds the loop. -/
def dispatchEvent (s : State) : State := dispatchDue s.queue.entries.length s

/-- The number of queued entries that name a gang (R63, R161). -/
def gangUses (g : GangId) (s : State) : Nat := (s.queue.entries.filter fun e => e.gang == some g).length

end Sys2Proof.Machine
end

