-- ==== Sys2Proof/Machine/Edges.lean ====
section
/-! DEFINITION. What the Probe Bank and the Lane Bank do when the count reaches an instant they hold, and when an edge is
seen (spec 05, 04): admission, deadline, timeout, return edge. -/

namespace Sys2Proof.Machine

/-- The context of a window's fault: its owner, probe and origin (R97). -/
def windowContext (p : ProbeId) (w : Window) (time : Instant) : FaultContext :=
  ⟨w.owner, 0, some p, w.origin.segment, some w.origin.index, w.origin.pass, time⟩

/-- The edge falls within the quiet interval (R91 step 1). The sum is exact. -/
def Window.quietAt (w : Window) (e : Instant) : Bool :=
  match w.lastTime with
  | some l => decide (e.toNat < l.toNat + w.quiet)
  | none => false

/-- The cause with which a window closes right after an admission, if any (R92). -/
def Window.boundReached (w : Window) : Option CloseCause :=
  if w.limit ≠ 0 ∧ w.count = w.limit then some .limit
  else if w.count = w.capacity then some .full
  else none

/-- Admission of an edge (R91 step 3, R92). -/
def admitEdge (p : ProbeId) (pol : Polarity) (e : Instant) (s : State) : State :=
  let w := s.probes.windows.get p
  let s := s.modProbes fun b => { b with captures := b.captures ++ [⟨p, w.bucket, w.count, e, pol⟩] }
  let s := s.modWindow p fun w =>
    { w with count := w.count + 1, pending := w.pending + 1, lastTime := some e
             firstTime := some (w.firstTime.getD e) }
  match (s.probes.windows.get p).boundReached with
  | some c => closeWindow p c e s
  | none => s

/-- An edge handed to the window of a probe (R91). -/
def windowEdge (p : ProbeId) (pol : Polarity) (e : Instant) (s : State) : State :=
  let w := s.probes.windows.get p
  if w.state = .isOpen ∧ w.edge.admits pol = true then
    if w.quietAt e then s.modWindow p fun w => { w with suppressed := succ32Sat w.suppressed }
    else if Config.captureCapacity ≤ s.probes.captures.length then
      raiseFault .captureLoss (windowContext p w e) (s.modWindow p fun w => { w with lost := succ32Sat w.lost })
    else admitEdge p pol e s
  else s

/-- An edge handed to the listener of a probe (R103). -/
def listenerEdge (p : ProbeId) (pol : Polarity) (e : Instant) (s : State) : State :=
  let k := s.probes.listeners.get p
  if k.armed = true ∧ k.edge.admits pol = true then
    let s := s.modListener p Listener.disarm
    match k.owner with
    | some t => handOutcome t (.edge e) s
    | none => s
  else s

/-- The edge of this tick is handed to the window, if that is still to be done (R86). -/
def handWindowEdge (p : ProbeId) (s : State) : State :=
  match (s.probes.detectors.get p).windowEdge with
  | some pol =>
    windowEdge p pol s.now
      (s.modProbes fun b => { b with detectors := b.detectors.modify p fun d => { d with windowEdge := none } })
  | none => s

/-- The edge of this tick is handed to the listener, if that is still to be done (R86). -/
def handListenerEdge (p : ProbeId) (s : State) : State :=
  match (s.probes.detectors.get p).listenerEdge with
  | some pol =>
    listenerEdge p pol s.now
      (s.modProbes fun b => { b with detectors := b.detectors.modify p fun d => { d with listenerEdge := none } })
  | none => s

/-- An edge handed to the consumers of its probe (R86, log 11). With both in one command the port grants once, after both
(log 6). -/
def handEdge (p : ProbeId) (o : EdgeOrder) (s : State) : State :=
  match o with
  | .windowThenListener => handListenerEdge p (handWindowEdge p s)
  | .listenerThenWindow => handWindowEdge p (handListenerEdge p s)
  | .windowOnly => handWindowEdge p s
  | .listenerOnly => handListenerEdge p s

/-- An instant has been reached. -/
def reached (i : Option Instant) (now : Instant) : Bool :=
  match i with
  | some i => decide (i ≤ now)
  | none => false

/-- The deadline of an OPEN window (R93). -/
def deadlineEvent (p : ProbeId) (s : State) : State :=
  let w := s.probes.windows.get p
  if w.state = .isOpen ∧ reached w.deadline s.now = true then
    let d := w.deadline.getD s.now
    let s := closeWindow p .deadline d s
    if w.count = 0 then raiseFault .windowStarved (windowContext p w d) s else s
  else s

/-- The timeout of an ARMED listener (R104). -/
def timeoutEvent (p : ProbeId) (s : State) : State :=
  let k := s.probes.listeners.get p
  if k.armed = true ∧ reached k.timeout s.now = true then
    let i := k.timeout.getD s.now
    let s := s.modListener p Listener.disarm
    match k.owner with
    | some t =>
      match k.policy with
      | .skip => handOutcome t .timeoutSkip s
      | .fault =>
        handTimeoutFault t i
          (raiseFault .awaitTimeout ⟨some t, 0, some p, k.origin.segment, some k.origin.index, k.origin.pass, i⟩) s
    | none => s
  else s

/-- The return edge of a lane (R78). -/
def returnEdgeEvent (l : LaneId) (s : State) : State := { s with lanes := s.lanes.modify l (Lane.expire s.now) }

end Sys2Proof.Machine
end

