-- ==== Sys2Proof/Machine/Directives.lean ====
section
/-! DEFINITION. The directive unit (spec 08): the checks of R152 in order, the effect of each of the ten kinds, and the
result each receives. -/

namespace Sys2Proof.Machine

/-- A directive answered (R140, R151). -/
def answer (d : DirectiveSlot) (o : DirectiveOutcome) (detail : Nat) (s : State) : State :=
  formResult d.sequence o (BitVec.ofNat 32 detail) s

/-- The drain that answers a directive OVERLAP: any in progress, but for an ABORT_TRACK of its own track (R153). -/
def overlapping (d : DirectiveSlot) (s : State) : Option Drain :=
  match s.directives.drain with
  | some r => if d.kind.toNat = 3 ∧ d.arg1.toNat = r.track.val then none else some r
  | none => none

/-- Steps 3 to 5 of R152 for DRAIN_TRACK and ABORT_TRACK: index, RUNNING, a state that admits the kind. -/
def onRunningTrack (d : DirectiveSlot) (admits : TrackState → Bool) (effect : TrackId → State → State) (s : State) :
    State :=
  match indexIn 8 d.arg1.toNat with
  | none => answer d .refusedArgument 1 s
  | some t =>
    if s.control.device ≠ .running then answer d .refusedDeviceState s.control.device.code s
    else if admits (s.tracks.get t).state = false then
      answer d .refusedTrackState (s.tracks.get t).state.code s
    else effect t s

def TrackState.drains : TrackState → Bool
  | .active => true | .awaiting => true | .parked => true | .closing => false | .off => false | .halted => false

/-- The effect of an accepted DRAIN_TRACK (R36, R156). With an empty queue the drain ends at once, and the detail of its DONE
is the number of records cut, 0 or 1: R157's count for a drain in progress, which the model takes for this one too, since
R156 gives none (log 34). -/
def drainEffect (sequence : Word16) (t : TrackId) (s : State) : State :=
  let s := disarmOf t (setTrackState t .closing (stopFetch t s))
  let s : State := { formStatus t s with directives := { s.directives with drain := some ⟨sequence, t⟩ } }
  if (s.tracks.get t).queued = 0 then endDrain t s else s

def directiveDrain (d : DirectiveSlot) (s : State) : State :=
  onRunningTrack d TrackState.drains (drainEffect d.sequence) s

/-- The effect of an accepted ABORT_TRACK (R38, R158): a drain it ends is answered first. The track's status write joins class 5
before both results, the model's choice (log 36). -/
def abortEffect (d : DirectiveSlot) (t : TrackId) (s : State) : State :=
  let purged := (s.entriesOf t).length
  answer d .done purged (abortTrack t .trackEnd (d.sequence.setWidth 32) s)

def directiveAbort (d : DirectiveSlot) (s : State) : State :=
  onRunningTrack d TrackState.alive (abortEffect d) s

/-- The code of a halt fault kind; FFh for none (R182), which a HALTED track never has. -/
def haltKindCode (k : Option FaultKind) : Nat :=
  match k with
  | some k => k.code.val
  | none => 255

/-- CLEAR_TRACK (R41, R159). A return from AWAITING of this tick comes first (R160). The status write joins class 5 before the
result, the model's choice (log 36). -/
def directiveClear (d : DirectiveSlot) (s : State) : State :=
  match indexIn 8 d.arg1.toNat with
  | none => answer d .refusedArgument 1 s
  | some t =>
    let s := returnFirst t s
    let k := s.tracks.get t
    if k.state ≠ .halted then answer d .refusedTrackState k.state.code s
    else
      let s := setTrackState t .off (s.modTrack t fun k => { k with haltKind := none, rejectedLink := none })
      answer d .done (haltKindCode k.haltKind) (formStatus t s)

/-- SET_GANG (R81, R161). -/
def directiveSetGang (d : DirectiveSlot) (s : State) : State :=
  match indexIn 6 d.arg1.toNat with
  | none => answer d .refusedArgument 1 s
  | some g =>
    if gangUses g s ≠ 0 then answer d .refusedInUse (gangUses g s) s
    else answer d .done (s.gangs.get g).toNat { s with gangs := s.gangs.put g (d.arg2.setWidth 16) }

/-- CONFIGURE_LANE (R68, R162). -/
def directiveConfigureLane (d : DirectiveSlot) (s : State) : State :=
  match indexIn 16 d.arg1.toNat, Level.ofCode d.arg2.toNat with
  | none, _ => answer d .refusedArgument 1 s
  | some _, none => answer d .refusedArgument 2 s
  | some l, some v =>
    match (s.lanes.get l).owner with
    | some t => answer d .refusedInUse t.val s
    | none => answer d .done (s.lanes.get l).safe.code { s with lanes := s.lanes.modify l (Lane.configure v) }

/-- The previous class and masked flag as the detail lays them out (spec 10.3). -/
def policyDetail (e : PolicyEntry) : Nat := e.cls.code + 256 * e.masked.toNat

/-- SET_FAULT_POLICY (R112, R163). -/
def directiveSetPolicy (d : DirectiveSlot) (s : State) : State :=
  match indexIn 12 d.arg1.toNat, FaultClass.ofCode d.arg2.toNat, indexIn 2 d.arg3.toNat with
  | none, _, _ => answer d .refusedArgument 1 s
  | some _, none, _ => answer d .refusedArgument 2 s
  | some _, some _, none => answer d .refusedArgument 3 s
  | some k, some c, some m =>
    answer d .done (policyDetail (s.faults.policy.get k))
      (s.modFaults fun f => { f with policy := f.policy.put k ⟨c, m == 1⟩ })

/-- The kinds of a set removed from the fault word (R127). -/
def acknowledge (kinds : BitVec 12) (f : FaultCollector) : FaultCollector :=
  let w := f.word &&& ~~~kinds
  { f with word := w, first := if w = 0 then { f.first with valid := false } else f.first }

/-- ACK_FAULTS (R127, R164). -/
def directiveAck (d : DirectiveSlot) (s : State) : State :=
  if 2 ^ 12 ≤ d.arg1.toNat then answer d .refusedArgument 1 s
  else
    let s := s.modFaults (acknowledge (d.arg1.setWidth 12))
    answer d .done s.faults.word.toNat s

/-- LOAD_TIME (R7, R165). -/
def directiveLoadTime (d : DirectiveSlot) (s : State) : State :=
  if s.control.device ≠ .stopped then answer d .refusedDeviceState s.control.device.code s
  else if 2 ^ 63 ≤ d.arg1.toNat then answer d .refusedArgument 1 s
  else answer d .done 0 { s with timebase := { s.timebase with count := d.arg1 } }

/-- SET_FRAME (R8, R165). -/
def directiveSetFrame (d : DirectiveSlot) (s : State) : State :=
  if s.control.device ≠ .stopped then answer d .refusedDeviceState s.timebase.frame s
  else if d.arg1.toNat < 12 ∨ 24 < d.arg1.toNat then answer d .refusedArgument s.timebase.frame s
  else answer d .done d.arg1.toNat { s with timebase := { s.timebase with frame := d.arg1.toNat } }

/-- A taken directive executed at its slot read (R152); a START_TRACK comes here only when its index is out of range. -/
def executeDirective (d : DirectiveSlot) (s : State) : State :=
  match overlapping d s with
  | some r => answer d .overlap r.sequence.toNat s
  | none =>
    match d.kind.toNat with
    | 1 => answer d .refusedArgument 1 s
    | 2 => directiveDrain d s
    | 3 => directiveAbort d s
    | 4 => directiveClear d s
    | 5 => directiveSetGang d s
    | 6 => directiveConfigureLane d s
    | 7 => directiveSetPolicy d s
    | 8 => directiveAck d s
    | 9 => directiveLoadTime d s
    | 10 => directiveSetFrame d s
    | k => answer d .unknownKind k s

/-- The engine's part of an accepted START_TRACK (R14, R16). -/
def startEffect (t : TrackId) (d : Descriptor) (s : State) : State :=
  let s := s.modTrack t fun k =>
    { k with
      state := .active, haltKind := none, quota := d.quota, retireNotifyAll := d.retireNotifyAll
      keepTotals := d.keepTotals, anchor := s.now, segment := d.head, cursor := 0, pass := 0, fetch := none
      pendingLink := none, rejectedLink := none
      dispatchedTotal := if d.keepTotals then k.dispatchedTotal else 0
      droppedTotal := if d.keepTotals then k.droppedTotal else 0
      outcome := none }
  formStatus t (beginEntry t d.head 0 s)

/-- Steps 5 to 7 of a START_TRACK, in RUNNING: OFF, quota, head address, and the start (R152, R155). A return from AWAITING of this
tick comes first (R160). -/
def startChecked (t : TrackId) (sequence : Word16) (d : Descriptor) (s : State) : State :=
  let s := returnFirst t s
  if (s.tracks.get t).state ≠ .off then
    formResult sequence .refusedTrackState (BitVec.ofNat 32 (s.tracks.get t).state.code) s
  else if d.quota = 0 ∨ quotaRoom s < d.quota then
    formResult sequence .refusedQuota (BitVec.ofNat 32 (quotaRoom s)) s
  else if d.head = 0 ∨ d.head.toNat % 64 ≠ 0 then formResult sequence .refusedArgument 2 s
  else
    let s := startEffect t d s
    formResult sequence .done (BitVec.ofNat 32 (quotaRoom s)) s

/-- A START_TRACK of a track in 0..7, executed at its descriptor read (R139, R155). The status write of an accepted one joins
class 5 before its result, the model's choice (log 36). -/
def executeStart (t : TrackId) (sequence : Word16) (r : ReadResult 128) (s : State) : State :=
  match s.directives.drain with
  | some x => formResult sequence .overlap (x.sequence.setWidth 32) s
  | none =>
    match r with
    | .error => formResult sequence .refusedArgument 3 s
    | .data b =>
      if s.control.device ≠ .running then
        formResult sequence .refusedDeviceState (BitVec.ofNat 32 s.control.device.code) s
      else startChecked t sequence (Descriptor.ofRecord b) s

end Sys2Proof.Machine
end

