-- ==== Sys2Proof/Machine/Scan.lean ====
section
/-! DEFINITION. The scanner (spec 07, 7.2) and the completions of its four reads. -/

namespace Sys2Proof.Machine

/-- A result write waits or is in flight (R137 phase 1, log 13). -/
def resultOutstanding (s : State) : Bool :=
  s.port.out.any OutWrite.isResult ||
  (match s.port.inFlight with
   | some f => (match f.access with | .out w => w.isResult | _ => false)
   | none => false)

/-- The slots that are HELD (R137 phase 3). -/
def heldSlots (s : State) : BitVec 32 :=
  allSlots.foldl (fun b n => if s.faults.slots.get n = .held then b ||| (1#32 <<< n.val) else b) 0#32

/-- The next read of the held-flag phase from slot `n` on. -/
def nextFlagRead (held : BitVec 32) (n : Nat) : Option ScanRead :=
  (allSlots.find? fun i => decide (n ≤ i.val) && held.getLsbD i.val).map .heldFlag

/-- The next read of the link phase from track `n` on, or of the phase after it. -/
def nextLinkRead (held : BitVec 32) (n : Nat) (s : State) : Option ScanRead :=
  match allTracks.find? fun t => decide (n ≤ t.val) && (s.tracks.get t).state == .parked with
  | some t => some (.link t (s.tracks.get t).segment)
  | none => nextFlagRead held 0

/-- The first read of a scan (R137). -/
def firstScanRead (held : BitVec 32) (s : State) : Option ScanRead :=
  if resultOutstanding s then nextLinkRead held 0 s else some .directiveSlot

/-- The writes formed at a scan end: a summary and a status of each track, where there is no image or it differs (R136
step 2, R142, R143). The new ones join class 5 with the summary first and then the tracks from T0, the model's choice
(log 33). -/
def formScanWrites (s : State) : State :=
  let s := if s.port.lastSummary = some (summaryImage s) then s else formSummary s
  allTracks.foldl
    (fun s t => if s.port.lastStatus.get t = some (statusImage (s.tracks.get t)) then s else formStatus t s) s

/-- Steps 1 and 2 of a scan's end (R136). -/
def finishScan (s : State) : State := formScanWrites { s with scanner := { s.scanner with scan := none } }

/-- A scan starts: its first read is requested, or it ends at once when it has none (R136, R137). -/
def beginScan (s : State) : State :=
  let held := heldSlots s
  match firstScanRead held s with
  | some r => requestScanRead r { s with scanner := { s.scanner with scan := some held } }
  | none => finishScan s

/-- The end of a scan, with the pending scan that follows it at the same event (R136). With ANCHOR 0 none is started
(R134, log 12). -/
def endScan (s : State) : State :=
  let s := finishScan s
  if s.scanner.pending = true then
    let s : State := { s with scanner := { s.scanner with pending := false } }
    if s.control.anchor = 0 then s else beginScan s
  else s

/-- A scan starts at a trigger (R135, R136). -/
def startScan (s : State) : State :=
  let held := heldSlots s
  match firstScanRead held s with
  | some r => requestScanRead r { s with scanner := { s.scanner with scan := some held } }
  | none => endScan s

/-- The SCAN command or an accepted RUN at the scanner (R134, R135). -/
def scanTrigger (s : State) : State :=
  if s.control.anchor = 0 then s
  else if s.scanner.scan.isSome then { s with scanner := { s.scanner with pending := true } }
  else startScan s

/-- A frame boundary at the scanner (R134, R135). -/
def frameTrigger (s : State) : State :=
  if s.control.anchor = 0 then s
  else if s.scanner.scan.isSome then { s with scanner := { s.scanner with skipped := s.scanner.skipped + 1 } }
  else startScan s

/-- The scan requests the given read, or ends when there is none (R136, R137). A scan abandoned by a reset requests
nothing. -/
def continueScan (next : BitVec 32 → State → Option ScanRead) (s : State) : State :=
  match s.scanner.scan with
  | some held =>
    match next held s with
    | some r => requestScanRead r s
    | none => endScan s
  | none => s

/-- The context of a failed exchange-area access without a track (R145). -/
def areaContext (address : Address) (now : Instant) : FaultContext := ⟨none, 0, none, address, none, 0, now⟩

/-- The directive slot is taken: its number is remembered and it is executed, but for a START_TRACK in range, whose
descriptor is read first (R138, R139). -/
def takeSlot (d : DirectiveSlot) (s : State) : State :=
  let s : State := { s with directives := { s.directives with lastSeen := d.sequence } }
  match (if d.kind.toNat = 1 then indexIn 8 d.arg1.toNat else none) with
  | some t => requestScanRead (.descriptor t d.sequence) s
  | none => continueScan (fun h s => nextLinkRead h 0 s) (executeDirective d s)

/-- The slot is taken when its number is not 0 and differs from the last seen (R138). -/
def slotTaken (d : DirectiveSlot) (s : State) : Bool := !(d.sequence == 0) && !(d.sequence == s.directives.lastSeen)

/-- The directive slot read completes with a slot (R138). -/
def slotReadDone (d : DirectiveSlot) (s : State) : State :=
  if slotTaken d s then takeSlot d s else continueScan (fun h s => nextLinkRead h 0 s) s

/-- The context of a failed scan read of `address` (R145). -/
def ScanRead.faultContext (r : ScanRead) (address : Address) (now : Instant) : FaultContext :=
  match r with
  | .link t tail => segmentContext t tail 0 now
  | .directiveSlot => areaContext address now
  | .descriptor _ _ => areaContext address now
  | .heldFlag _ => areaContext address now

/-- The directive slot read fails (R138, R146). Here and in the three completions below, the fault of a failed read is taken
before the scan goes on, the model's reading (log 9). -/
def slotReadFailed (address : Address) (s : State) : State :=
  continueScan (fun h s => nextLinkRead h 0 s) (raiseFault .busRead (areaContext address s.now) s)

/-- The descriptor read completes (R139, R146). -/
def descriptorDone (t : TrackId) (sequence : Word16) (address : Address) (r : ReadResult 128) (s : State) : State :=
  let s := executeStart t sequence r s
  let s := match r with
    | .data _ => s
    | .error => raiseFault .busRead (areaContext address s.now) s
  continueScan (fun h s => nextLinkRead h 0 s) s

/-- A scan's read of a tail link completes (R31, R42, R146). -/
def scanLinkDone (t : TrackId) (tail : Address) (r : ReadResult 64) (s : State) : State :=
  let s := match r with
    | .data v =>
      if (s.tracks.get t).state = .parked ∧ (s.tracks.get t).segment = tail then takeScanLink t v s else s
    | .error => raiseFault .busRead (segmentContext t tail 0 s.now) s
  continueScan (fun h s => nextLinkRead h (t.val + 1) s) s

/-- A held-flag read completes (R126, R146). -/
def heldFlagDone (n : SlotId) (address : Address) (r : ReadResult 32) (s : State) : State :=
  let s := match r with
    | .data b =>
      if s.faults.slots.get n = .held ∧ heldFlagOf b = false then
        s.modFaults fun f => { f with slots := f.slots.put n .free }
      else s
    | .error => raiseFault .busRead (areaContext address s.now) s
  continueScan (fun h _ => nextFlagRead h (n.val + 1)) s

end Sys2Proof.Machine
end

