-- ==== Sys2Proof/Machine/Port.lean ====
section
/-! DEFINITION. The memory port (spec 07, 7.1, 7.5): completions of the engines' reads and of every write, the arbiter,
and the grant. -/

namespace Sys2Proof.Machine

/-- What a command is answered with. -/
abbrev Answer := Host.Outcome State Fault Refusal

/-! ## Completions of the engines' reads (R42, R145, R146) -/

/-- A header read is taken (R42). -/
def headerTaken (k : Track) (a : Address) (generation : Word32) : Bool :=
  k.state == .active && k.segment == a && k.fetch.isNone && k.readGeneration == generation

/-- An action or link word read is taken (R42). -/
def segmentTaken (k : Track) (a : Address) (generation : Word32) : Bool :=
  k.state == .active && k.segment == a && k.fetch.isSome && k.readGeneration == generation

/-- The engine's read has completed (R15). -/
def clearStallPort (t : TrackId) (s : State) : State := s.modTrack t fun k => { k with stallPort := false }

/-- BUS_READ for a failed read, after its local consequence; a discarded read still raises it (R42, R133, R145). -/
def readFault {n : Nat} (r : ReadResult n) (c : FaultContext) (s : State) : State :=
  match r with
  | .data _ => s
  | .error => raiseFault .busRead c s

/-- A header read completes (R17 to R20). -/
def headerDone (t : TrackId) (a : Address) (pass generation : Word32) (r : ReadResult 256) (s : State) : State :=
  if headerTaken (s.tracks.get t) a generation then
    let s := clearStallPort t s
    match r with
    | .error => raiseFault .busRead (segmentContext t a pass s.now) (refuseEntry t a false s)
    | .data d =>
      let k := s.tracks.get t
      match headerValid k a (Header.ofRecord d) with
      | some (m, p) => fetchNext t (acceptHeader t a (Header.ofRecord d) m p s)
      | none => raiseFault .badSegment (segmentContext t a pass s.now) (refuseEntry t a (writesRejected k a) s)
  else readFault r (segmentContext t a pass s.now) s

/-- The context of an action read's fault (R22, R145). -/
def actionContext (t : TrackId) (a : Address) (index : Nat) (pass : Word32) (lanes : LaneSet) (probe : Option ProbeId)
    (now : Instant) : FaultContext :=
  ⟨some t, lanes, probe, a, some index, pass, now⟩

/-- The insertion request of an action record that passes R22, with the due time of R23. -/
def insertionOf (t : TrackId) (k : Track) (f : FetchContext) (index : Nat) (d : BitVec 256) : Option Insertion :=
  match parseAction d, actionTimeMode d with
  | some (a, target), some m =>
    match dueTime m (actionTime d) k.anchor k.pass f.period with
    | some due => some ⟨t, a, due, target, actionNotify d, f.latePolicy, k.segment, k.pass, index⟩
    | none => none
  | _, _ => none

/-- An action read completes (R21, R22, R24, R25, R146): the cursor advances, the action is inserted or dropped, and
fetch goes on unless the track now awaits. -/
def actionDone (t : TrackId) (a : Address) (index : Nat) (pass generation : Word32) (r : ReadResult 256) (s : State) :
    State :=
  if segmentTaken (s.tracks.get t) a generation then
    let s := (clearStallPort t s).modTrack t fun k => { k with cursor := index + 1 }
    let k := s.tracks.get t
    match r with
    | .error =>
      resumeFetch t (raiseFault .busRead (actionContext t a index pass 0 none s.now) (countDropped t a s))
    | .data d =>
      match k.fetch.bind fun f => insertionOf t k f index d with
      | none =>
        resumeFetch t
          (raiseFault .badAction (actionContext t a index pass (badActionLanes d) (badActionProbe d) s.now)
            (countDropped t a s))
      | some i =>
        if i.action.isAwait = true ∧ willDrop i s = false then insertAction i s else resumeFetch t (insertAction i s)
  else readFault r (actionContext t a index pass 0 none s.now) s

/-- A link word read at a segment's end completes (R29, R30). A failed one that lets a segment loop has BUS_READ taken before
the next pass's action read is requested, the model's choice (log 8). -/
def linkDone (t : TrackId) (a : Address) (mayLoop : Bool) (pass generation : Word32) (r : ReadResult 64) (s : State) :
    State :=
  let c := segmentContext t a pass s.now
  if segmentTaken (s.tracks.get t) a generation then
    let s := clearStallPort t s
    let v : Address := match r with | .data v => v | .error => 0
    if mayLoop = true ∧ v = 0 then resumeFetch t (readFault r c (startPass t s))
    else readFault r c (takeLink t v s)
  else readFault r c s

/-! ## Completions of writes (R145, R147) -/

/-- BUS_WRITE for a failed write, after its local consequence (R145). -/
def writeFault (r : WriteResult) (c : FaultContext) (s : State) : State :=
  match r with
  | .stored => s
  | .error => raiseFault .busWrite c s

/-- The context of a failed capture record or bucket summary write (R99, R145). -/
def windowWriteContext (p : ProbeId) (w : Window) (now : Instant) : FaultContext := windowContext p w now

/-- A capture record write completes (R99). -/
def captureDone (p : ProbeId) (r : WriteResult) (s : State) : State :=
  let c := windowWriteContext p (s.probes.windows.get p) s.now
  let s := s.modProbes fun b => { b with captures := b.captures.tail }
  let s := s.modWindow p fun w => { w with pending := w.pending - 1 }
  let w := s.probes.windows.get p
  let s := if w.state = .closing ∧ w.pending = 0 then requestBucketSummary p s else s
  writeFault r c s

/-- A bucket summary write completes (R96). BUS_WRITE names the owner that the window had until this completion: R145 gives
the window's owner as its track, and R96 and R147 make the window FREE, with owner none, before the fault is raised, so
which of the two is meant is the model's choice (log 35). -/
def bucketSummaryDone (p : ProbeId) (r : WriteResult) (s : State) : State :=
  let w := s.probes.windows.get p
  let c := windowWriteContext p w s.now
  let s := s.modWindow p fun w => { w with state := .free, owner := none }
  let s := if w.notify then raiseAttention .window s else s
  writeFault r c s

/-- An incident write completes (R124): its failure is counted, and the BUS_WRITE it raises takes no slot. -/
def incidentDone (n : SlotId) (address : Address) (r : WriteResult) (s : State) : State :=
  let s := s.modFaults fun f => { f with slots := f.slots.put n .held }
  match r with
  | .stored => s
  | .error => takeFault .busWrite (areaContext address s.now) true (countLost s)

/-- A retire write completes (R34). -/
def retireDone (t : TrackId) (a : Address) (r : WriteResult) (s : State) : State :=
  writeFault r (segmentContext t a 0 s.now) s

/-- A directive result write completes (R140). -/
def resultDone (address : Address) (r : WriteResult) (s : State) : State :=
  writeFault r (areaContext address s.now) (raiseAttention .directive s)

/-- A summary write completes (R142). -/
def summaryDone (address : Address) (r : WriteResult) (s : State) : State :=
  match r with
  | .stored => s
  | .error => raiseFault .busWrite (areaContext address s.now) (s.modPort fun p => { p with lastSummary := none })

/-- A track status write completes (R143). -/
def statusDone (t : TrackId) (address : Address) (r : WriteResult) (s : State) : State :=
  match r with
  | .stored => s
  | .error =>
    raiseFault .busWrite { areaContext address s.now with track := some t }
      (s.modPort fun p => { p with lastStatus := p.lastStatus.put t none })

/-! ## The arbiter and the grant (R129 to R132) -/

/-- The access goes into the exchange area (R129). -/
def PortAccess.inArea : PortAccess → Bool
  | .bucketSummary _ => false
  | .capture _ => false
  | .incident _ => true
  | .track _ _ => false
  | .scan .directiveSlot => true
  | .scan (.descriptor _ _) => true
  | .scan (.link _ _) => false
  | .scan (.heldFlag _) => true
  | .out _ => true

/-- The address of an access, with ANCHOR as it stands at the grant (R129, spec 10.3 to 10.5). -/
def PortAccess.address (anchor : Address) : PortAccess → Address
  | .bucketSummary w => w.bucket
  | .capture r => add64 r.bucket (64 + 16 * r.index)
  | .incident w => add64 anchor (0x340 + 32 * w.slot.val)
  | .track _ (.header a _ _) => a
  | .track _ (.action a i _ _) => add64 a (64 + 32 * i)
  | .track _ (.link a _ _ _) => a
  | .track _ (.retire a _) => add64 a 0x20
  | .scan .directiveSlot => anchor
  | .scan (.descriptor t _) => add64 anchor (0x0C0 + 16 * t.val)
  | .scan (.link _ a) => a
  | .scan (.heldFlag n) => add64 anchor (0x340 + 32 * n.val)
  | .out (.result _) => add64 anchor 0x020
  | .out (.summary _ _ _) => add64 anchor 0x040
  | .out (.status t _) => add64 anchor (0x140 + 64 * t.val)

/-- The tracks in round-robin order, starting after the last one served (R132). -/
def roundRobinOrder (last : TrackId) : List TrackId := allTracks.map fun i => last + 1 + i

/-- The track that class 3 serves next, with its oldest request (R132). -/
def nextTrackRequest (p : Port) : Option (TrackId × TrackRequest) :=
  (roundRobinOrder p.roundRobin).findSome? fun t => (p.tracks.get t).head?.map fun r => (t, r)

/-- The request the arbiter grants: the first of the lowest-numbered class that has one (R131). -/
def nextAccess (captures : List CaptureRecord) (p : Port) : Option PortAccess :=
  match p.summaries with
  | w :: _ => some (.bucketSummary w)
  | [] =>
    match captures with
    | r :: _ => some (.capture r)
    | [] =>
      match p.incidents with
      | w :: _ => some (.incident w)
      | [] =>
        match nextTrackRequest p with
        | some (t, r) => some (.track t r)
        | none =>
          match p.scanRead with
          | some r => some (.scan r)
          | none =>
            match p.out with
            | w :: _ => some (.out w)
            | [] => none

/-- The granted request leaves its class; a capture record stays in the capture queue until its write completes (R98). -/
def removeGranted (a : PortAccess) (p : Port) : Port :=
  match a with
  | .bucketSummary _ => { p with summaries := p.summaries.tail }
  | .capture _ => p
  | .incident _ => { p with incidents := p.incidents.tail }
  | .track t _ => { p with tracks := p.tracks.modify t List.tail, roundRobin := t }
  | .scan _ => { p with scanRead := none }
  | .out _ => { p with out := p.out.tail }

/-- The local consequence and fault of an access that completes with an error (R145 to R147). -/
def failAccess (a : PortAccess) (address : Address) (s : State) : State :=
  match a with
  | .bucketSummary w => bucketSummaryDone w.probe .error s
  | .capture r => captureDone r.probe .error s
  | .incident w => incidentDone w.slot address .error s
  | .track t (.header x p g) => headerDone t x p g .error s
  | .track t (.action x i p g) => actionDone t x i p g .error s
  | .track t (.link x m p g) => linkDone t x m p g .error s
  | .track t (.retire x _) => retireDone t x .error s
  | .scan .directiveSlot => slotReadFailed address s
  | .scan (.descriptor t q) => descriptorDone t q address .error s
  | .scan (.link t x) => scanLinkDone t x .error s
  | .scan (.heldFlag n) => heldFlagDone n address .error s
  | .out (.result _) => resultDone address .error s
  | .out (.summary _ _ _) => summaryDone address .error s
  | .out (.status t _) => statusDone t address .error s

/-- The port serves: while it is idle and a request waits it grants one (R131); an exchange-area access granted while
ANCHOR is 0 completes with an error at its grant, and the next request is granted at the same event (R129, R130). The
port grants nothing while RESET_N is held low (R150). `n` bounds the accesses completed so (log 18). -/
def serve : Nat → State → State
  | 0, s => s
  | n + 1, s =>
    if s.port.inFlight.isSome = true ∨ s.control.resetLow = true then s
    else
      match nextAccess s.probes.captures s.port with
      | none => s
      | some a =>
        let address := a.address s.control.anchor
        let s := s.modPort (removeGranted a)
        if a.inArea = true ∧ s.control.anchor = 0 then serve n (failAccess a address s)
        else s.modPort fun p => { p with inFlight := some ⟨a, address, false⟩ }

/-- The grants at the end of an event (R131, log 6). -/
def servePort (s : State) : State := serve Config.serviceBound s

/-- The access in flight has completed; a write that succeeded has stored its whole record (R130). -/
def landAccess (f : InFlight) (stored : Bool) (s : State) : State :=
  let s := s.modPort fun p => { p with inFlight := none }
  if stored then { s with memory := Memory.store s.memory f.address f.access.bytes } else s

def WriteResult.isStored : WriteResult → Bool
  | .stored => true
  | .error => false

/-- What the completion of an access that a reset abandoned still does: a scan read that fails raises BUS_READ (R133, R145),
and every other access does nothing (R149). While RESET_N is held low the Fault Collector holds its reset values and no
fault is taken (R180). R133 and R149 differ on the scan read; the model's reading of the two is log 31. -/
def abandonedRead {n : Nat} (r : ReadResult n) (access : PortAccess) (address : Address) (s : State) : State :=
  match access with
  | .scan x => if s.control.resetLow then s else readFault r (x.faultContext address s.now) s
  | _ => s

/-- The access in flight is the one `effect` is for, and completes: the port falls idle, a write that succeeded is in
memory, the requester takes the outcome, and the next request is granted (R130). For an access that a reset abandoned
`lost` stands in the requester's place: nothing, but for a scan read (R133, R149, log 31). With no such access in flight
there is no event (log 3). -/
def completeAccess (effect : PortAccess → Address → Option (State → State)) (stored : Bool) (s : State)
    (lost : PortAccess → Address → State → State := fun _ _ s => s) : State :=
  match s.port.inFlight with
  | some f =>
    match effect f.access f.address with
    | some e =>
      let landed := landAccess f stored s
      servePort (if f.orphan then lost f.access f.address landed else e landed)
    | none => s
  | none => s

end Sys2Proof.Machine
end

