-- ==== Sys2Proof/Machine/Registers.lean ====
section
/-! DEFINITION. The register window (spec 09): what each register reads as, the answer of the bus target, and the
commands that are accesses of it, but for RUN, STOP, SCAN and RESET. -/

namespace Sys2Proof.Machine

/-! ## What a host read returns (R168 to R171, R177, R178, R9, R10) -/

def readIdent : Word32 := Config.ident
def readAnchorLo (s : State) : Word32 := s.control.anchor.setWidth 32
def readAnchorHi (s : State) : Word32 := s.control.anchor.extractLsb' 32 32
/-- CONTROL: device state in bits 9..8, SCAN_ACTIVE 12, SCAN_PENDING 13, RUN_REFUSED 14, ANCHOR_VALID 15 (R171, spec
10.6). -/
def readControl (s : State) : Word32 :=
  BitVec.ofNat 32 (256 * s.control.device.code + 4096 * s.scanner.scan.isSome.toNat + 8192 * s.scanner.pending.toNat +
    16384 * s.control.runRefused.toNat + 32768 * (!(s.control.anchor == 0)).toNat)
def readAttention (s : State) : Word32 := s.control.attention.setWidth 32
def readAttnEnable (s : State) : Word32 := s.control.enable.setWidth 32
def readTimeLo (s : State) : Word32 := s.timebase.count.setWidth 32
def readTimeHi (s : State) : Word32 := s.timebase.timeHi

/-- The value of the register at a word offset (offset / 4), which a read returns (spec 09, table) while RESET_N is high;
`answerAccess` is what the bus target answers. The change a TIME_LO read makes is TIME_LO_READ. -/
def readRegister (s : State) (n : Fin 8) : Word32 :=
  match n with
  | 0 => readIdent
  | 1 => readAnchorLo s
  | 2 => readAnchorHi s
  | 3 => readControl s
  | 4 => readAttention s
  | 5 => readAttnEnable s
  | 6 => readTimeLo s
  | 7 => readTimeHi s

/-! ## Accesses -/

/-- The word offset of an access; the window holds a register at each (R168). -/
def wordOffset (a : RegisterAccess) : Fin 8 := ⟨a.offset.toNat / 4, by omega⟩

/-- What the bus target answers to an access, read or write, at its event (R168): an error to a bad access, and to every
access while RESET_N is held low (R12, R180); the register's value to a read. A read but that of TIME_LO changes nothing and
is no command, and this is its whole effect (log 15). -/
def answerAccess (a : RegisterAccess) (s : State) : Response :=
  if a.bad = true ∨ s.control.resetLow = true then .error
  else if a.write then .written
  else .data (readRegister s (wordOffset a))

def respond (r : Response) (s : State) : State := s.modControl fun k => { k with response := some r }

/-- An access of the register window: an error response while RESET_N is held low, reading and changing nothing (R168);
otherwise its effect and its answer. -/
def hostAccess (r : Response) (effect : State → State) (s : State) : Answer :=
  if s.control.resetLow then .next (respond .error s) else .next (respond r (effect s))

/-! ## The plain registers -/

/-- TIME_LO_READ (R9). -/
def execTimeLoRead (s : State) : Answer :=
  hostAccess (.data (readTimeLo s))
    (fun s => { s with timebase := { s.timebase with timeHi := s.timebase.count.extractLsb' 32 32 } }) s

/-- ANCHOR_LO_WRITE (R170): bits 11..31 in STOPPED, the low 11 bits discarded. -/
def execAnchorLoWrite (value : Word32) (s : State) : Answer :=
  hostAccess .written
    (fun s =>
      if s.control.device = .stopped then
        s.modControl fun k =>
          { k with anchor := (k.anchor.extractLsb' 32 32 ++ value.extractLsb' 11 21 ++ 0#11 : BitVec 64) }
      else s) s

/-- ANCHOR_HI_WRITE (R170): bits 32..63 in STOPPED. -/
def execAnchorHiWrite (value : Word32) (s : State) : Answer :=
  hostAccess .written
    (fun s =>
      if s.control.device = .stopped then
        s.modControl fun k => { k with anchor := (value ++ k.anchor.extractLsb' 0 32 : BitVec 64) }
      else s) s

/-- ATTENTION_WRITE (R177): write 1 to clear. -/
def execAttentionWrite (value : Word32) (s : State) : Answer :=
  hostAccess .written
    (fun s => s.modControl fun k => { k with attention := k.attention &&& ~~~(value.setWidth 7) }) s

/-- ATTN_ENABLE_WRITE (R178). -/
def execAttnEnableWrite (value : Word32) (s : State) : Answer :=
  hostAccess .written (fun s => s.modControl fun k => { k with enable := value.setWidth 7 }) s

/-- REGISTER_WRITE_NO_EFFECT (R168, R169, R9, R10, R172). -/
def execRegisterWriteNoEffect (_register : QuietRegister) (_value : Word32) (s : State) : Answer :=
  hostAccess .written id s

/-- BAD_REGISTER_ACCESS (R168). -/
def execBadRegisterAccess (_access : RegisterAccess) (s : State) : Answer := hostAccess .error id s

end Sys2Proof.Machine
end

