-- ==== Sys2Proof/Machine/Run.lean ====
section
/-! DEFINITION. The device state machine and the resets (spec 09, 9.3 to 9.6): RUN, STOP, SCAN, RESET and
POWER_ON_RESET. -/

namespace Sys2Proof.Machine

/-! ## RUN (R172 to R174) -/

/-- A kind in the fault word has the class DEVICE in its current policy entry (R174). -/
def deviceKindPending (f : FaultCollector) : Bool :=
  (List.finRange 12).any fun n => f.word.getLsbD n.val && (f.policy.get n).cls == .device

/-- Every edge detector takes its pin's sample as its reference; the value counting begins from is no frame boundary
(R87, R5). -/
def takeReferences (pins : Word16) (s : State) : State :=
  { s with
    timebase := { s.timebase with boundary := false }
    probes := { s.probes with detectors := Table.tab fun p => ⟨some (pins.getLsbD p.val), none, none⟩ } }

/-- The part of an accepted RUN that both states share: RUNNING, RUN_REFUSED clear, a summary write, a scan trigger (R173,
R174). The summary joins class 5 before the writes of a scan that ends at once, the model's choice (log 36). -/
def acceptRun (s : State) : State :=
  scanTrigger (formSummary (s.modControl fun k => { k with device := .running, runRefused := false }))

/-- RUN at Control (R172). -/
def runCommand (pins : Word16) (s : State) : State :=
  match s.control.device with
  | .stopped =>
    if s.control.anchor = 0 then s.modControl fun k => { k with runRefused := true }
    else acceptRun (takeReferences pins s)
  | .running => s
  | .halted =>
    if deviceKindPending s.faults then s.modControl fun k => { k with runRefused := true } else acceptRun s

/-! ## STOP (R175) -/

/-- What the timebase and the detectors still owed of the present tick is dropped when the count stops (log 21). -/
def dropTickEvents (s : State) : State :=
  { s with
    timebase := { s.timebase with boundary := false }
    probes := { s.probes with
      detectors := Table.tab fun p => { s.probes.detectors.get p with windowEdge := none, listenerEdge := none } } }

/-- Every track not in OFF or HALTED is aborted, windows closing with DEVICE_STOP (R40). -/
def abortAll (s : State) : State :=
  allTracks.foldl (fun s t => if (s.tracks.get t).state.alive then abortTrack t .deviceStop 0 s else s) s

/-- STOP at Control (R172, R175). -/
def stopCommand (s : State) : State :=
  match s.control.device with
  | .stopped => s
  | .running =>
    formSummary (abortAll (dropTickEvents (s.modControl fun k => { k with device := .stopped, runRefused := false })))
  | .halted =>
    formSummary (abortAll (dropTickEvents (s.modControl fun k => { k with device := .stopped, runRefused := false })))

/-! ## SCAN (R135, R172) -/

def scanCommand (s : State) : State := scanTrigger (s.modControl fun k => { k with runRefused := false })

/-! ## Resets (R149, R150, R179, R180) -/

/-- The Exchange Port after a reset: the access in flight goes on, and its completion changes nothing but memory (R149), but
for the fault of a failed scan read (R133, log 31). -/
def resetPort (p : Port) : Port :=
  { Port.reset with inFlight := p.inFlight.map fun f => { f with orphan := true } }

/-- Every block at its reset values; ANCHOR and ATTN_ENABLE as given (R179, R180). -/
def resetBlocks (anchor : Address) (enable : BitVec 7) (s : State) : State :=
  { State.reset with
    port := resetPort s.port
    control := { Control.reset with anchor := anchor, enable := enable, response := s.control.response
                                    resetLow := s.control.resetLow }
    memory := s.memory
    pending := s.pending }

/-- RESET at Control (R179). -/
def resetCommand (s : State) : State := resetBlocks s.control.anchor s.control.enable s

/-! ## The commands -/

/-- A CONTROL write that carries a command: its effect and grants, answered as a completed write; an error while RESET_N
is held low (R168, R172). -/
def controlWrite (effect : State → State) (s : State) : Answer :=
  hostAccess .written (fun s => servePort (effect s)) s

/-- RUN (R172). -/
def execRun (pins : Word16) (s : State) : Answer := controlWrite (runCommand pins) s

/-- STOP (R175). -/
def execStop (s : State) : Answer := controlWrite stopCommand s

/-- SCAN (R135). -/
def execScan (s : State) : Answer := controlWrite scanCommand s

/-- RESET (R179). -/
def execReset (s : State) : Answer := controlWrite resetCommand s

/-- POWER_ON_RESET (R180): RESET_N falling resets every block with ANCHOR and ATTN_ENABLE 0 and holds it; RESET_N rising
lets the device go in STOPPED (log 14). -/
def execPowerOnReset (phase : ResetPhase) (s : State) : Answer :=
  match phase with
  | .low => .next ((resetBlocks 0 0 s).modControl fun k => { k with resetLow := true, response := none })
  | .high => .next (s.modControl fun k => { k with resetLow := false })

end Sys2Proof.Machine
end

