-- ==== Sys2Proof/Machine/Ticks.lean ====
section
/-! DEFINITION. The events of the count (spec 01, 03, 04, 05): the advance itself and what it reaches. -/

namespace Sys2Proof.Machine

/-- An event that the advancing count brings: none while the count stands still (R1, R5, R86). -/
def tickEvent (effect : State → State) (s : State) : State :=
  if s.counting then servePort (effect s) else s

/-! ## The events of a tick -/

/-- The frame boundary of the present tick, if it is still to be taken (R5, R135). -/
def boundaryEvent (s : State) : State :=
  if s.timebase.boundary = true then frameTrigger { s with timebase := { s.timebase with boundary := false } } else s

/-- FRAME_BOUNDARY (R5). -/
def execFrameBoundary (s : State) : Answer := .next (tickEvent boundaryEvent s)

/-- PROBE_EDGE (R86). Where one command hands the edge to both consumers, R86's two events are one event at the port: it
grants once, after both. The listener asks nothing of the port, so windowOnly and listenerOnly sent as two commands differ
from it in no grant (log 6, log 11). -/
def execProbeEdge (p : ProbeId) (o : EdgeOrder) (s : State) : Answer := .next (tickEvent (handEdge p o) s)

/-- DISPATCH_EVENT (R53). -/
def execDispatchEvent (s : State) : Answer := .next (tickEvent dispatchEvent s)

/-- RETURN_EDGE_EXPIRY (R78). -/
def execReturnEdgeExpiry (l : LaneId) (s : State) : Answer := .next (tickEvent (returnEdgeEvent l) s)

/-- DEADLINE_EXPIRY (R93). -/
def execDeadlineExpiry (p : ProbeId) (s : State) : Answer := .next (tickEvent (deadlineEvent p) s)

/-- TIMEOUT_EXPIRY (R104). -/
def execTimeoutExpiry (p : ProbeId) (s : State) : Answer := .next (tickEvent (timeoutEvent p) s)

/-! ## The advance (R1, R86) -/

/-- The outcomes handed over at the present tick that are still on their way reach their engines, from T0 on (R26, R106, log 10,
log 30). -/
def takeOutcomes (s : State) : State := allTracks.foldl (fun s t => takeOutcome t s) s

/-- The events of the present tick that have not been taken are taken, each as an event of its own: return edges, due
entries, deadlines, timeouts, edges, frame boundary (log 4); and last the await outcomes of the tick (log 30). -/
def takeTickEvents (s : State) : State :=
  let s := allLanes.foldl (fun s l => tickEvent (returnEdgeEvent l) s) s
  let s := tickEvent dispatchEvent s
  let s := allProbes.foldl (fun s p => tickEvent (deadlineEvent p) s) s
  let s := allProbes.foldl (fun s p => tickEvent (timeoutEvent p) s) s
  let s := allProbes.foldl (fun s p => tickEvent (handEdge p .windowThenListener) s) s
  tickEvent takeOutcomes (tickEvent boundaryEvent s)

/-- A detector's sample (R86): an edge where it differs from the reference, and the sample is the new reference. -/
def Detector.sample (level : Bool) (d : Detector) : Detector :=
  let edge : Option Polarity :=
    match d.reference with
    | some r => if r = level then none else some (if level then .rise else .fall)
    | none => none
  ⟨some level, edge, edge⟩

/-- The count advances by one and the detectors sample; a multiple of 2^F reached is a frame boundary (R1, R5, R86). -/
def advance (pins : Word16) (s : State) : State :=
  let count := add64 s.timebase.count 1
  { s with
    timebase := { s.timebase with count := count, boundary := count.toNat % 2 ^ s.timebase.frame == 0 }
    probes := { s.probes with
      detectors := Table.tab fun p => (s.probes.detectors.get p).sample (pins.getLsbD p.val) } }

/-- COUNT_ADVANCE (R1): in STOPPED, and while RESET_N is held low, the count stands still. -/
def execCountAdvance (pins : Word16) (s : State) : Answer :=
  if s.counting then .next (advance pins (takeTickEvents s)) else .next s

end Sys2Proof.Machine
end

