-- ==== Sys2Proof/Machine/DirectiveCommands.lean ====
section
/-! DEFINITION. The commands that are completions of the scan's reads: the directive slot read, the ten directives it can
bring (log 5), tail links and held flags. -/

namespace Sys2Proof.Machine

/-- The directive slot read completes with this slot (R138). -/
def slotCompletes (d : DirectiveSlot) (s : State) : State :=
  completeAccess
    (fun x _ =>
      match x with
      | .scan .directiveSlot => some (slotReadDone d)
      | _ => none) false s

/-- The directive slot read completes with an error (R138, R133). -/
def slotFails (s : State) : State :=
  completeAccess
    (fun x a =>
      match x with
      | .scan .directiveSlot => some (slotReadFailed a)
      | _ => none) false s (lost := abandonedRead (.error : ReadResult 256))

/-- DIRECTIVE_SLOT_READ_DONE (R138). -/
def execDirectiveSlotReadDone (r : ReadResult 256) (s : State) : Answer :=
  match r with
  | .data d => .next (slotCompletes (DirectiveSlot.ofRecord d) s)
  | .error => .next (slotFails s)

/-- START_TRACK (R139, R155). -/
def execStartTrack (r : ReadResult 128) (s : State) : Answer :=
  .next (completeAccess
    (fun x a =>
      match x with
      | .scan (.descriptor t q) => some (descriptorDone t q a r)
      | _ => none) false s (lost := abandonedRead r))

/-- DRAIN_TRACK (R156). -/
def execDrainTrack (sequence : Word16) (track : Word64) (s : State) : Answer :=
  .next (slotCompletes ⟨sequence, 2, track, 0, 0⟩ s)

/-- ABORT_TRACK (R158). -/
def execAbortTrack (sequence : Word16) (track : Word64) (s : State) : Answer :=
  .next (slotCompletes ⟨sequence, 3, track, 0, 0⟩ s)

/-- CLEAR_TRACK (R159). -/
def execClearTrack (sequence : Word16) (track : Word64) (s : State) : Answer :=
  .next (slotCompletes ⟨sequence, 4, track, 0, 0⟩ s)

/-- SET_GANG (R161). -/
def execSetGang (sequence : Word16) (gang lanes : Word64) (s : State) : Answer :=
  .next (slotCompletes ⟨sequence, 5, gang, lanes, 0⟩ s)

/-- CONFIGURE_LANE (R162). -/
def execConfigureLane (sequence : Word16) (lane safe : Word64) (s : State) : Answer :=
  .next (slotCompletes ⟨sequence, 6, lane, safe, 0⟩ s)

/-- SET_FAULT_POLICY (R163). -/
def execSetFaultPolicy (sequence : Word16) (kind cls masked : Word64) (s : State) : Answer :=
  .next (slotCompletes ⟨sequence, 7, kind, cls, masked⟩ s)

/-- ACK_FAULTS (R164). -/
def execAckFaults (sequence : Word16) (kinds : Word64) (s : State) : Answer :=
  .next (slotCompletes ⟨sequence, 8, kinds, 0, 0⟩ s)

/-- LOAD_TIME (R7). -/
def execLoadTime (sequence : Word16) (value : Word64) (s : State) : Answer :=
  .next (slotCompletes ⟨sequence, 9, value, 0, 0⟩ s)

/-- SET_FRAME (R8). -/
def execSetFrame (sequence : Word16) (exponent : Word64) (s : State) : Answer :=
  .next (slotCompletes ⟨sequence, 10, exponent, 0, 0⟩ s)

/-- SCAN_LINK_READ_DONE (R31). -/
def execScanLinkReadDone (r : ReadResult 64) (s : State) : Answer :=
  .next (completeAccess
    (fun x _ =>
      match x with
      | .scan (.link t a) => some (scanLinkDone t a r)
      | _ => none) false s (lost := abandonedRead r))

/-- HELD_FLAG_READ_DONE (R126). -/
def execHeldFlagReadDone (r : ReadResult 32) (s : State) : Answer :=
  .next (completeAccess
    (fun x a =>
      match x with
      | .scan (.heldFlag n) => some (heldFlagDone n a r)
      | _ => none) false s (lost := abandonedRead r))

end Sys2Proof.Machine
end

