-- ==== Sys2Proof/Machine/Completions.lean ====
section
/-! DEFINITION. The commands that are completions of the engines' reads and of the device's writes (spec 07, 7.1,
7.5). -/

namespace Sys2Proof.Machine

/-- HEADER_READ_DONE (R17). -/
def execHeaderReadDone (r : ReadResult 256) (s : State) : Answer :=
  .next (completeAccess
    (fun x _ =>
      match x with
      | .track t (.header a p g) => some (headerDone t a p g r)
      | _ => none) false s)

/-- ACTION_READ_DONE (R21). -/
def execActionReadDone (r : ReadResult 256) (s : State) : Answer :=
  .next (completeAccess
    (fun x _ =>
      match x with
      | .track t (.action a i p g) => some (actionDone t a i p g r)
      | _ => none) false s)

/-- LINK_WORD_READ_DONE (R29). -/
def execLinkWordReadDone (r : ReadResult 64) (s : State) : Answer :=
  .next (completeAccess
    (fun x _ =>
      match x with
      | .track t (.link a m p g) => some (linkDone t a m p g r)
      | _ => none) false s)

/-- RETIRE_WRITE_DONE (R34). -/
def execRetireWriteDone (r : WriteResult) (s : State) : Answer :=
  .next (completeAccess
    (fun x _ =>
      match x with
      | .track t (.retire a _) => some (retireDone t a r)
      | _ => none) (WriteResult.isStored r) s)

/-- CAPTURE_RECORD_WRITE_DONE (R99). -/
def execCaptureRecordWriteDone (r : WriteResult) (s : State) : Answer :=
  .next (completeAccess
    (fun x _ =>
      match x with
      | .capture c => some (captureDone c.probe r)
      | _ => none) (WriteResult.isStored r) s)

/-- BUCKET_SUMMARY_WRITE_DONE (R96). -/
def execBucketSummaryWriteDone (r : WriteResult) (s : State) : Answer :=
  .next (completeAccess
    (fun x _ =>
      match x with
      | .bucketSummary w => some (bucketSummaryDone w.probe r)
      | _ => none) (WriteResult.isStored r) s)

/-- INCIDENT_WRITE_DONE (R124). -/
def execIncidentWriteDone (r : WriteResult) (s : State) : Answer :=
  .next (completeAccess
    (fun x a =>
      match x with
      | .incident w => some (incidentDone w.slot a r)
      | _ => none) (WriteResult.isStored r) s)

/-- RESULT_WRITE_DONE (R140). -/
def execResultWriteDone (r : WriteResult) (s : State) : Answer :=
  .next (completeAccess
    (fun x a =>
      match x with
      | .out (.result _) => some (resultDone a r)
      | _ => none) (WriteResult.isStored r) s)

/-- SUMMARY_WRITE_DONE (R142). -/
def execSummaryWriteDone (r : WriteResult) (s : State) : Answer :=
  .next (completeAccess
    (fun x a =>
      match x with
      | .out (.summary _ _ _) => some (summaryDone a r)
      | _ => none) (WriteResult.isStored r) s)

/-- STATUS_WRITE_DONE (R143). -/
def execStatusWriteDone (r : WriteResult) (s : State) : Answer :=
  .next (completeAccess
    (fun x a =>
      match x with
      | .out (.status t _) => some (statusDone t a r)
      | _ => none) (WriteResult.isStored r) s)

end Sys2Proof.Machine
end

