-- ==== Sys2Proof/Machine/Dispatch.lean ====
section
/-! DEFINITION. exec: one arm per command. -/

namespace Sys2Proof.Machine

/-- The effect of a command on everything but the queue. -/
def exec (i : Instr) (s : State) : Host.Outcome State Fault Refusal :=
  match i with
  | .frameBoundary => Sys2Proof.Machine.execFrameBoundary s
  | .probeEdge p o => Sys2Proof.Machine.execProbeEdge p o s
  | .dispatchEvent => Sys2Proof.Machine.execDispatchEvent s
  | .returnEdgeExpiry l => Sys2Proof.Machine.execReturnEdgeExpiry l s
  | .deadlineExpiry p => Sys2Proof.Machine.execDeadlineExpiry p s
  | .timeoutExpiry p => Sys2Proof.Machine.execTimeoutExpiry p s
  | .timeLoRead => Sys2Proof.Machine.execTimeLoRead s
  | .run pins => Sys2Proof.Machine.execRun pins s
  | .stop => Sys2Proof.Machine.execStop s
  | .scan => Sys2Proof.Machine.execScan s
  | .reset => Sys2Proof.Machine.execReset s
  | .anchorLoWrite v => Sys2Proof.Machine.execAnchorLoWrite v s
  | .anchorHiWrite v => Sys2Proof.Machine.execAnchorHiWrite v s
  | .attentionWrite v => Sys2Proof.Machine.execAttentionWrite v s
  | .attnEnableWrite v => Sys2Proof.Machine.execAttnEnableWrite v s
  | .registerWriteNoEffect r v => Sys2Proof.Machine.execRegisterWriteNoEffect r v s
  | .badRegisterAccess a => Sys2Proof.Machine.execBadRegisterAccess a s
  | .powerOnReset p => Sys2Proof.Machine.execPowerOnReset p s
  | .startTrack r => Sys2Proof.Machine.execStartTrack r s
  | .drainTrack n t => Sys2Proof.Machine.execDrainTrack n t s
  | .abortTrack n t => Sys2Proof.Machine.execAbortTrack n t s
  | .clearTrack n t => Sys2Proof.Machine.execClearTrack n t s
  | .setGang n g l => Sys2Proof.Machine.execSetGang n g l s
  | .configureLane n l v => Sys2Proof.Machine.execConfigureLane n l v s
  | .setFaultPolicy n k c m => Sys2Proof.Machine.execSetFaultPolicy n k c m s
  | .ackFaults n k => Sys2Proof.Machine.execAckFaults n k s
  | .loadTime n v => Sys2Proof.Machine.execLoadTime n v s
  | .setFrame n f => Sys2Proof.Machine.execSetFrame n f s
  | .headerReadDone r => Sys2Proof.Machine.execHeaderReadDone r s
  | .actionReadDone r => Sys2Proof.Machine.execActionReadDone r s
  | .linkWordReadDone r => Sys2Proof.Machine.execLinkWordReadDone r s
  | .scanLinkReadDone r => Sys2Proof.Machine.execScanLinkReadDone r s
  | .heldFlagReadDone r => Sys2Proof.Machine.execHeldFlagReadDone r s
  | .retireWriteDone r => Sys2Proof.Machine.execRetireWriteDone r s
  | .captureRecordWriteDone r => Sys2Proof.Machine.execCaptureRecordWriteDone r s
  | .bucketSummaryWriteDone r => Sys2Proof.Machine.execBucketSummaryWriteDone r s
  | .incidentWriteDone r => Sys2Proof.Machine.execIncidentWriteDone r s
  | .resultWriteDone r => Sys2Proof.Machine.execResultWriteDone r s
  | .summaryWriteDone r => Sys2Proof.Machine.execSummaryWriteDone r s
  | .statusWriteDone r => Sys2Proof.Machine.execStatusWriteDone r s
  | .directiveSlotReadDone r => Sys2Proof.Machine.execDirectiveSlotReadDone r s
  | .countAdvance pins => Sys2Proof.Machine.execCountAdvance pins s

end Sys2Proof.Machine
end

