-- ==== Sys2Proof/Machine/Pins.lean ====
section
/-! DEFINITION. The LANE pins tick by tick (R66): a pin shows for a tick the level that the last event taken at it leaves. -/

namespace Sys2Proof.Machine

/-- What a LANE pin shows for the tick the state stands in if no command but the advance is taken at it: the events the tick
still owes are taken, and the levels between them do not appear (R66). -/
def tickPin (s : State) (l : LaneId) : Level :=
  if s.control.resetLow then .float else ((takeTickEvents s).lanes.get l).level

/-- The command leaves the tick at which the state stands. While the count stands still no tick is numbered, and every
command is taken as at a tick of its own (log 27). -/
def leavesTick (c : Instr) (s : State) : Bool :=
  match c with
  | .countAdvance _ => true
  | _ => !s.counting

/-- What a LANE pin shows while commands are taken, one level for each tick, the last of them for the tick the run ends at
(R66). A run ends where a command has no next state. -/
def pinRun (l : LaneId) : List Instr → State → List Level
  | [], s => [tickPin s l]
  | c :: cs, s =>
    match exec c s with
    | .next t => if leavesTick c s then tickPin s l :: pinRun l cs t else pinRun l cs t
    | .fault _ => [tickPin s l]
    | .refused _ => [tickPin s l]

end Sys2Proof.Machine
end

