-- ==== Sys2Proof/Safety.lean ====
section
/-! DEFINITION. The invariants of the device that the statements are about, and the words they are said in. -/

namespace Sys2Proof.Machine

/-! ## Invariants -/

/-- The low 11 bits of ANCHOR are 0 (R170). -/
def AnchorAligned (s : State) : Prop := s.control.anchor.setWidth 11 = 0#11

/-- F lies in 12..24 (R4). -/
def FrameInRange (s : State) : Prop := 12 ≤ s.timebase.frame ∧ s.timebase.frame ≤ 24

/-- Outside STOPPED ANCHOR is not 0: RUN from STOPPED asks for it (R173), and ANCHOR changes in STOPPED alone (R170). -/
def RunningHasAnchor (s : State) : Prop := s.control.device ≠ .stopped → s.control.anchor ≠ 0

/-- While RESET_N is held low the device is STOPPED (R180). -/
def ResetLineStops (s : State) : Prop := s.control.resetLow = true → s.control.device = .stopped

def ControlInv (s : State) : Prop := AnchorAligned s ∧ FrameInRange s ∧ RunningHasAnchor s ∧ ResetLineStops s

/-- A lane owned by no track stands at its safe level with no return edge pending, and an owned lane is LOW or HIGH
(R67). -/
def LanesInv (s : State) : Prop :=
  ∀ l : LaneId,
    ((s.lanes.get l).owner = none → (s.lanes.get l).level = (s.lanes.get l).safe ∧ (s.lanes.get l).returnEdge = none) ∧
    ((s.lanes.get l).owner ≠ none → (s.lanes.get l).level ≠ .float)

/-- The first-fault record is valid exactly when the fault word is not empty (R115). -/
def FirstFaultInv (s : State) : Prop := s.faults.first.valid = true ↔ s.faults.word ≠ 0

/-- The capture queue holds at most 32 records (R98). -/
def CaptureInv (s : State) : Prop := s.probes.captures.length ≤ 32

/-- One entry may stand before another: no later due (R45), and no collision at one due time (R51). -/
def EntryBefore (a b : Entry) : Prop :=
  a.due ≤ b.due ∧
    (a.action.isDriving = true → b.action.isDriving = true → a.due = b.due → a.lanes &&& b.lanes = 0)

/-- The entries are in the order of their due times, and no two driving entries share a due time and a lane (R45,
R51). -/
def QueueInv (s : State) : Prop := s.queue.entries.Pairwise EntryBefore

/-- The memory image is in its canonical form (log 1). -/
def MemoryInv (s : State) : Prop := Memory.wf s.memory

/-! ## Words of the statements -/

/-- The access in flight is `x` at address `a`, and no reset has been taken since its grant. -/
def InFlightIs (s : State) (x : PortAccess) (a : Address) : Prop := s.port.inFlight = some ⟨x, a, false⟩

/-- The port is idle after a completion (R130). -/
def released (s : State) : State := { s with port := { s.port with inFlight := none } }

/-- A write that succeeded has stored its record (R130). -/
def stored (a : Address) (bs : List Byte) (s : State) : State := { s with memory := Memory.store s.memory a bs }

/-- A track's items replaced. -/
def withTrack (t : TrackId) (k : Track) (s : State) : State := { s with tracks := s.tracks.put t k }

/-- A window's record replaced. -/
def withWindow (p : ProbeId) (w : Window) (s : State) : State :=
  { s with probes := { s.probes with windows := s.probes.windows.put p w } }

/-- A listener's record replaced. -/
def withListener (p : ProbeId) (k : Listener) (s : State) : State :=
  { s with probes := { s.probes with listeners := s.probes.listeners.put p k } }

/-- A request at the end of its track's list in class 3 (R131). -/
def withRequest (t : TrackId) (r : TrackRequest) (s : State) : State :=
  { s with port := { s.port with tracks := s.port.tracks.put t (s.port.tracks.get t ++ [r]) } }

/-- A cause set in ATTENTION (R177). -/
def withCause (c : Cause) (s : State) : State :=
  { s with control := { s.control with attention := s.control.attention ||| c.bit } }

/-- A result write at the end of class 5, its time now (R140, R144). -/
def withResult (n : Word16) (o : DirectiveOutcome) (detail : Word32) (s : State) : State :=
  { s with port := { s.port with out := s.port.out ++ [.result ⟨n, o, detail, s.timebase.count⟩] } }

/-- The directive slot read is in flight, no drain is in progress, and `n` is a sequence number that is taken (R138). -/
def SlotTakes (s : State) (n : Word16) : Prop :=
  (∃ a, InFlightIs s (.scan .directiveSlot) a) ∧ n ≠ 0 ∧ n ≠ s.directives.lastSeen ∧ s.directives.drain = none

/-- The slot read has completed and directive `n` is taken (R130, R138). -/
def slotTakenState (n : Word16) (s : State) : State :=
  { released s with directives := { s.directives with lastSeen := n } }

/-- After a directive the scan goes on with its link phase or ends, and the port grants (R137, R136, R131). -/
def scanGoesOn (s : State) : State := servePort (continueScan (fun held u => nextLinkRead held 0 u) s)

/-- The scan's own read has completed, and the scan goes on with the given next read, or ends (R136, R137); then the port
grants. -/
def scanReads (next : BitVec 32 → State → Option ScanRead) (s : State) : State := servePort (continueScan next s)

/-- The window belongs to the track. -/
def ownedBy (t : TrackId) (w : Window) : Bool := decide (w.owner = some t)

/-- The bucket summary that is requested when the window of `p`, if it is OPEN and `closes` picks it, closes now: at once when
none of its records is pending, else not yet (R94, R95). -/
def summaryAtClose (closes : Window → Bool) (c : CloseCause) (s : State) (p : ProbeId) : Option BucketSummary :=
  let w := s.probes.windows.get p
  if closes w = true ∧ w.state = .isOpen ∧ w.pending = 0 then
    some ⟨p, w.bucket,
      { cause := c, probe := p, edge := w.edge, count := w.count, suppressed := w.suppressed, lost := w.lost
        firstTime := w.firstTime, lastTime := w.lastTime, openTime := w.openTime, closeTime := s.timebase.count }⟩
  else none

/-- The summaries requested when the windows that `closes` picks close now, from P0 on (R94, R95; their order is log 10). -/
def closingSummaries (closes : Window → Bool) (c : CloseCause) (s : State) : List BucketSummary :=
  allProbes.filterMap (summaryAtClose closes c s)

/-- The capture queue, the requests that wait in classes 2 and 4, the pointer of class 3, the access in flight, and the results
that wait in class 5 are kept (R100, R131, R148). -/
def QueuesKept (s u : State) : Prop :=
  u.probes.captures = s.probes.captures ∧ u.port.incidents = s.port.incidents ∧ u.port.scanRead = s.port.scanRead ∧
  u.port.roundRobin = s.port.roundRobin ∧ u.port.inFlight = s.port.inFlight ∧
  ∀ r, .result r ∈ s.port.out → .result r ∈ u.port.out

/-- What a track held has been taken from it (R38, R39, R60, R83, R94, R106, R107): its entries are purged, its OPEN windows
closed with a cause and the summaries of those with no record pending requested, its listener disarmed and its lanes freed; no
other track, window, listener, lane or entry is touched, and the requests that waited are kept. -/
def Stripped (t : TrackId) (cause : CloseCause) (s u : State) : Prop :=
  u.queue.entries = s.queue.entries.filter (fun e => !(e.track == t)) ∧
  (∀ x, x ≠ t → u.tracks.get x = s.tracks.get x) ∧
  (∀ l, u.lanes.get l =
    if (s.lanes.get l).owner = some t then
      { s.lanes.get l with owner := none, level := (s.lanes.get l).safe, returnEdge := none }
    else s.lanes.get l) ∧
  (∀ p, u.probes.windows.get p =
    if (s.probes.windows.get p).owner = some t ∧ (s.probes.windows.get p).state = .isOpen then
      { s.probes.windows.get p with state := .closing, cause := some cause, closeTime := s.timebase.count }
    else s.probes.windows.get p) ∧
  (∀ p, u.probes.listeners.get p =
    if (s.probes.listeners.get p).armed = true ∧ (s.probes.listeners.get p).owner = some t then
      { s.probes.listeners.get p with armed := false, owner := none, timeout := none }
    else s.probes.listeners.get p) ∧
  u.port.summaries = s.port.summaries ++ closingSummaries (ownedBy t) cause s ∧
  (∀ x, x ≠ t → u.port.tracks.get x = s.port.tracks.get x) ∧ QueuesKept s u

/-- A status write of the track is formed with its items as they stand: it waits in class 5, and it is the last image (R143). -/
def StatusFormed (t : TrackId) (u : State) : Prop :=
  u.port.lastStatus.get t = some (statusImage (u.tracks.get t)) ∧ .status t (statusImage (u.tracks.get t)) ∈ u.port.out

/-- Every cause that was set is set, and no cause but those of a list has been raised (R177). -/
def RaisesOnly (causes : List Cause) (s u : State) : Prop :=
  ∀ c, (s.attends c = true → u.attends c = true) ∧ (c ∉ causes → u.attends c = s.attends c)

/-- The retire writes of a cut, in list order, are at the end of the track's list in class 3 (R34, R38). -/
def CutsRequested (t : TrackId) (s u : State) : Prop :=
  u.port.tracks.get t = s.port.tracks.get t ++ (s.tracks.get t).openList.map fun r =>
    .retire r.address ⟨.cut, r.passes, r.dispatched, r.dropped, s.timebase.count⟩

/-- A 32-bit count raised by one, `n` times, saturating (R24, R33). -/
def raisedSat (c : Word32) (n : Nat) : Word32 := BitVec.ofNat 32 (min (c.toNat + n) (2 ^ 32 - 1))

/-- The entry in hand, if it is of this track (R55). -/
def handOf (s : State) (t : TrackId) : List Entry := s.queue.inHand.toList.filter fun e => e.track == t

/-- The number of entries that refer to the segment at an address. -/
def naming (a : Address) (es : List Entry) : Nat := (es.filter fun e => e.segment == a).length

/-- The retire record of a segment that is cut after the track's purge (R33, R34, R55): the entry in hand counts as
dispatched, and every entry purged as dropped. -/
def cutRecord (s : State) (t : TrackId) (r : OpenSegment) : RetireRecord :=
  ⟨.cut, r.passes, raisedSat r.dispatched (naming r.address (handOf s t)),
    raisedSat r.dropped (naming r.address (s.entriesOf t)), s.timebase.count⟩

/-- The items of a track that has ended, but for its state and its halt kind: its entries are purged with their notices, its
open records retired, the stall flags and the pending link cleared and any read in flight marked for discard; every other item
is kept (R33, R38, R39, R42, R55), but that the anchor is as it was before an await that resolved at this tick and was taken ahead
of a directive (R106, R160). -/
def trackEnded (t : TrackId) (s : State) : Track :=
  let k := s.tracks.get t
  { k with
    queued := k.queued - (handOf s t).length - (s.entriesOf t).length
    dispatchedTotal := k.dispatchedTotal + BitVec.ofNat 32 (handOf s t).length
    droppedTotal := k.droppedTotal + BitVec.ofNat 32 (s.entriesOf t).length
    openList := [], pendingLink := none, stallQuota := false, stallSegments := false, stallPort := false
    readGeneration := k.readGeneration + 1, outcome := none
    anchor := match k.outcome with
      | some (.taken before) => before
      | _ => k.anchor }

/-- After the purge every open record has been cut (R33, R34, R35, R38, R39, R55): the retire writes in list order at the end of
the track's list in class 3, and RETIRED raised where a cut segment or the track asks for it. -/
def PurgedAndCut (t : TrackId) (s u : State) : Prop :=
  u.port.tracks.get t =
    s.port.tracks.get t ++ (s.tracks.get t).openList.map (fun r => .retire r.address (cutRecord s t r)) ∧
  ((∃ r ∈ (s.tracks.get t).openList, r.notifyOnRetire = true ∨ (s.tracks.get t).retireNotifyAll = true) →
    u.attends .retired = true)

/-- The little-endian field of `n` bytes at an offset of a record (R181). -/
def fieldIn (bs : List Byte) (offset n : Nat) : Nat :=
  ((bs.drop offset).take n).foldr (fun b v => b.toNat + 256 * v) 0

/-- A record has its size, and each field given by offset, size and value stands in it; a value is cut to its size. -/
def HasLayout (bs : List Byte) (size : Nat) (fields : List (Nat × Nat × Nat)) : Prop :=
  bs.length = size ∧ ∀ f ∈ fields, fieldIn bs f.1 f.2.1 = f.2.2 % 256 ^ f.2.1

/-- The byte of an index, FFh for none (R182). -/
def indexOrFF {n : Nat} : Option (Fin n) → Nat
  | some i => i.val
  | none => 0xFF

/-- An instant or address field, 0 for none (R182). -/
def wordOr0 : Option Word64 → Nat
  | some w => w.toNat
  | none => 0

/-- The codes of the named values that the device writes or answers (spec 10.2, R151). -/
def CodeTable : Prop :=
  (∀ v : DeviceState, v.code = match v with
    | .stopped => 0 | .running => 1 | .halted => 2) ∧
  (∀ v : TrackState, v.code = match v with
    | .off => 0 | .active => 1 | .awaiting => 2 | .parked => 3 | .closing => 4 | .halted => 5) ∧
  (∀ v : Level, v.code = match v with
    | .low => 0 | .high => 1 | .float => 2) ∧
  (∀ v : FaultClass, v.code = match v with
    | .note => 0 | .track => 1 | .gang => 2 | .device => 3) ∧
  (∀ v : FaultKind, v.code.val = match v with
    | .late => 0 | .laneCollision => 1 | .notOwner => 2 | .claimConflict => 3 | .probeBusy => 4 | .windowStarved => 5
    | .awaitTimeout => 6 | .captureLoss => 7 | .badSegment => 8 | .badAction => 9 | .busRead => 10 | .busWrite => 11) ∧
  (∀ v : EdgeKind, v.code = match v with
    | .rise => 1 | .fall => 2 | .both => 3) ∧
  (∀ v : Polarity, v.code = match v with
    | .rise => 1 | .fall => 2) ∧
  (∀ v : RetireOutcome, v.code = match v with
    | .done => 1 | .doneWithDrops => 2 | .cut => 3 | .skipped => 4 | .rejected => 5) ∧
  (∀ v : CloseCause, v.code = match v with
    | .limit => 1 | .full => 2 | .deadline => 3 | .closed => 4 | .trackEnd => 5 | .trackHalt => 6 | .deviceStop => 7
    | .deviceHalt => 8) ∧
  (∀ v : DirectiveOutcome, v.code = match v with
    | .done => 1 | .endedByAbort => 2 | .endedByHalt => 3 | .refusedDeviceState => 4 | .refusedTrackState => 5
    | .refusedQuota => 6 | .refusedInUse => 7 | .refusedArgument => 8 | .overlap => 9 | .unknownKind => 10)

/-- The set has exactly the slots that are HELD (R137 phase 3). -/
def IsHeldSet (s : State) (held : BitVec 32) : Prop :=
  ∀ n : SlotId, held.getLsbD n.val = true ↔ s.faults.slots.get n = .held

/-- A scan's first two steps at its end: no scan in progress; a summary write and then a status write of each track from T0
on, each where it differs from its last image or has none (R136, R142, R143; their order in class 5 is log 33). -/
def scanEnded (s : State) : State :=
  let e : State := { s with scanner := { s.scanner with scan := none } }
  let f := if s.port.lastSummary = some (summaryImage s) then e else formSummary e
  allTracks.foldl
    (fun u t => if s.port.lastStatus.get t = some (statusImage (s.tracks.get t)) then u else formStatus t u) f

/-- Nothing is granted at the end of an event: an access is in flight, or no request waits. -/
def PortQuiet (s : State) : Prop :=
  s.port.inFlight.isSome = true ∨ nextAccess s.probes.captures s.port = none

/-- No event of the present tick is still to be taken, but for await outcomes that have been handed over. -/
def NoEventOwed (s : State) : Prop :=
  (∀ e es, s.queue.entries = e :: es → s.now < e.due) ∧
  (∀ l r, (s.lanes.get l).returnEdge = some r → s.now < r.instant) ∧
  (∀ p, (s.probes.windows.get p).state = .isOpen → reached (s.probes.windows.get p).deadline s.now = false) ∧
  (∀ p, (s.probes.listeners.get p).armed = true → reached (s.probes.listeners.get p).timeout s.now = false) ∧
  (∀ p, (s.probes.detectors.get p).windowEdge = none ∧ (s.probes.detectors.get p).listenerEdge = none) ∧
  s.timebase.boundary = false ∧ PortQuiet s

/-- No event of the present tick is still to be taken, and no await outcome is on its way. -/
def NothingOwed (s : State) : Prop := NoEventOwed s ∧ ∀ t, (s.tracks.get t).outcome = none

/-- The port after it has granted at most one request, none of them being completed at its grant (R131, R132). -/
def granted (s : State) : State :=
  if s.port.inFlight.isSome = true ∨ s.control.resetLow = true then s
  else
    match nextAccess s.probes.captures s.port with
    | none => s
    | some x => { s with port := { removeGranted x s.port with inFlight := some ⟨x, x.address s.control.anchor, false⟩ } }

/-! ## Kinds of commands -/

/-- The command is an access of the register window (R168). -/
def IsAccess : Instr → Bool
  | .timeLoRead => true
  | .run _ => true
  | .stop => true
  | .scan => true
  | .reset => true
  | .anchorLoWrite _ => true
  | .anchorHiWrite _ => true
  | .attentionWrite _ => true
  | .attnEnableWrite _ => true
  | .registerWriteNoEffect _ _ => true
  | .badRegisterAccess _ => true
  | _ => false

/-- The command is an event that the advancing count brings, or its advance (R1, R5, R53, R78, R86, R93, R104). -/
def IsTickEvent : Instr → Bool
  | .countAdvance _ => true
  | .frameBoundary => true
  | .probeEdge _ _ => true
  | .dispatchEvent => true
  | .returnEdgeExpiry _ => true
  | .deadlineExpiry _ => true
  | .timeoutExpiry _ => true
  | _ => false

/-- The command is the completion of a memory access (R130). -/
def IsCompletion (c : Instr) : Bool :=
  match c with
  | .powerOnReset _ => false
  | c => !IsAccess c && !IsTickEvent c

/-- The command is the completion of a scan's read with an error (R146). -/
def IsFailedScanRead : Instr → Bool
  | .directiveSlotReadDone .error => true
  | .startTrack .error => true
  | .scanLinkReadDone .error => true
  | .heldFlagReadDone .error => true
  | _ => false

/-- The command is the completion of access `x`: the answer says whether it stores a record (R130). The directive rows
are completions of the slot read, and START_TRACK of the descriptor read (R138, R139, log 5). -/
def completes (c : Instr) (x : PortAccess) : Option Bool :=
  match x, c with
  | .track _ (.header ..), .headerReadDone _ => some false
  | .track _ (.action ..), .actionReadDone _ => some false
  | .track _ (.link ..), .linkWordReadDone _ => some false
  | .track _ (.retire ..), .retireWriteDone r => some (WriteResult.isStored r)
  | .capture _, .captureRecordWriteDone r => some (WriteResult.isStored r)
  | .bucketSummary _, .bucketSummaryWriteDone r => some (WriteResult.isStored r)
  | .incident _, .incidentWriteDone r => some (WriteResult.isStored r)
  | .out (.result _), .resultWriteDone r => some (WriteResult.isStored r)
  | .out (.summary ..), .summaryWriteDone r => some (WriteResult.isStored r)
  | .out (.status ..), .statusWriteDone r => some (WriteResult.isStored r)
  | .scan (.link ..), .scanLinkReadDone _ => some false
  | .scan (.heldFlag _), .heldFlagReadDone _ => some false
  | .scan (.descriptor ..), .startTrack _ => some false
  | .scan .directiveSlot, .directiveSlotReadDone _ => some false
  | .scan .directiveSlot, .drainTrack .. => some false
  | .scan .directiveSlot, .abortTrack .. => some false
  | .scan .directiveSlot, .clearTrack .. => some false
  | .scan .directiveSlot, .setGang .. => some false
  | .scan .directiveSlot, .configureLane .. => some false
  | .scan .directiveSlot, .setFaultPolicy .. => some false
  | .scan .directiveSlot, .ackFaults .. => some false
  | .scan .directiveSlot, .loadTime .. => some false
  | .scan .directiveSlot, .setFrame .. => some false
  | _, _ => none

end Sys2Proof.Machine
end

