-- ==== Sys2Proof/Certificates/Slice0/Obligations.lean ====
section
/-! DEFINITION. The statements for the provers. Each docstring names the rules of spec/ it rests on. -/

section

open Sys2Proof Sys2Proof.Machine

/-! ## The machine as a whole -/

/-- A step runs the command at the front of the queue with the queue's rest. -/
def Obligations.StepRunsFrontCommand : Prop :=
  ∀ (c : Instr) (rest : List Instr) (s : State), step { s with pending := c :: rest } = exec c { s with pending := rest }

/-- Every command answers a next state in every state and leaves the queue of commands alone, so the device never stops;
on an empty queue the block idles, which is the model's choice (log 17). -/
def Obligations.EveryStepAnswersNext : Prop :=
  (∀ (c : Instr) (s : State), ∃ t, exec c s = .next t ∧ t.pending = s.pending) ∧
  (∀ s : State, s.pending = [] → step s = .next s)

/-- The reset values the chapters give: R11, R13, R64, R65, R81, R87, R88, R98, R101, R112, R128, R134, R138, R141,
R142, R143, R149, R179, R180. That the fields 0 of the first-fault record are its 40 bytes in the summary is the
model's reading (log 19). The empty memory image and the empty queue of commands are the model's (log 1, log 16). -/
def Obligations.ResetValues : Prop :=
  State.reset.timebase.count = 0 ∧ State.reset.timebase.frame = 16 ∧ State.reset.timebase.timeHi = 0 ∧
  (∀ t, State.reset.tracks.get t =
    { state := .off, haltKind := none, quota := 0, retireNotifyAll := false, keepTotals := false, queued := 0
      segment := 0, cursor := 0, pass := 0, anchor := 0, openList := [], pendingLink := none, rejectedLink := none
      stallQuota := false, stallSegments := false, stallPort := false, dispatchedTotal := 0, droppedTotal := 0
      fetch := none, linkSource := 0, readGeneration := 0, outcome := none }) ∧
  State.reset.queue.entries = [] ∧ State.reset.queue.insertion = 0 ∧ State.reset.queue.markTag = 0 ∧
  State.reset.queue.markTime = 0 ∧
  (∀ l, State.reset.lanes.get l = ⟨.float, none, .float, none⟩) ∧ (∀ g, State.reset.gangs.get g = 0) ∧
  (∀ p, (State.reset.probes.detectors.get p).reference = none) ∧
  (∀ p, State.reset.probes.windows.get p =
    { state := .free, owner := none, edge := .rise, bucket := 0, capacity := 0, limit := 0, deadline := none, quiet := 0
      count := 0, suppressed := 0, lost := 0, firstTime := none, lastTime := none, openTime := 0, closeTime := 0
      cause := none, pending := 0, notify := false, origin := ⟨0, 0, 0⟩ }) ∧
  State.reset.probes.captures = [] ∧
  (∀ p, State.reset.probes.listeners.get p =
    { armed := false, owner := none, edge := .rise, timeout := none, policy := .skip, origin := ⟨0, 0, 0⟩ }) ∧
  (∀ k : FaultKind, State.reset.faults.policy.get k.code =
    ⟨match k with
      | .late => .note | .windowStarved => .note | .captureLoss => .note | .busRead => .device | .busWrite => .device
      | .laneCollision => .track | .notOwner => .track | .claimConflict => .track | .probeBusy => .track
      | .awaitTimeout => .track | .badSegment => .track | .badAction => .track, false⟩) ∧
  State.reset.faults.word = 0 ∧ State.reset.faults.first.valid = false ∧
  State.reset.faults.first.bytes = List.replicate 40 0 ∧ State.reset.faults.sequence = 0 ∧
  State.reset.faults.lost = 0 ∧ State.reset.faults.masked = 0 ∧ (∀ n, State.reset.faults.slots.get n = .free) ∧
  State.reset.port.inFlight = none ∧ nextAccess [] State.reset.port = none ∧ State.reset.port.roundRobin = 7 ∧
  State.reset.port.lastSummary = none ∧ (∀ t, State.reset.port.lastStatus.get t = none) ∧
  State.reset.port.generation = 0 ∧ State.reset.scanner = ⟨none, false, 0⟩ ∧ State.reset.directives = ⟨0, none⟩ ∧
  State.reset.control.device = .stopped ∧ State.reset.control.anchor = 0 ∧ State.reset.control.runRefused = false ∧
  State.reset.control.attention = 0 ∧ State.reset.control.enable = 0 ∧ State.reset.memory = [] ∧
  State.reset.pending = []

/-- Each of the six invariants that steps keep holds right after reset. -/
def Obligations.ResetMeetsInvariants : Prop :=
  ControlInv State.reset ∧ LanesInv State.reset ∧ FirstFaultInv State.reset ∧ CaptureInv State.reset ∧
  QueueInv State.reset ∧ MemoryInv State.reset

/-- Every step keeps this: ANCHOR is aligned (R170), F is in 12..24 (R4), the device does not run without ANCHOR
(R173), and it is STOPPED while RESET_N is low (R180). -/
def Obligations.StepKeepsControlInv : Prop := ∀ s t : State, ControlInv s → step s = .next t → ControlInv t

/-- Every step keeps this: an unowned lane stands at its safe level with no return edge, and an owned lane is LOW or
HIGH (R67). -/
def Obligations.StepKeepsLanesInv : Prop := ∀ s t : State, LanesInv s → step s = .next t → LanesInv t

/-- Every step keeps this: the first-fault record is valid exactly when the fault word is not empty (R115). -/
def Obligations.StepKeepsFirstFaultInv : Prop := ∀ s t : State, FirstFaultInv s → step s = .next t → FirstFaultInv t

/-- Every step keeps this: the capture queue holds at most 32 records (R98). -/
def Obligations.StepKeepsCaptureInv : Prop := ∀ s t : State, CaptureInv s → step s = .next t → CaptureInv t

/-- Every step keeps this: the Due Queue is in due-time order (R45) and free of collisions (R51). -/
def Obligations.StepKeepsQueueInv : Prop := ∀ s t : State, QueueInv s → step s = .next t → QueueInv t

/-- Every step keeps this: the memory image is in its canonical form (the model's form, log 1). -/
def Obligations.StepKeepsMemoryInv : Prop := ∀ s t : State, MemoryInv s → step s = .next t → MemoryInv t

/-! ## The register window and run control -/

/-- What a host read of the registers other than CONTROL returns; what every access is answered with, an error while
RESET_N is low, and that the access of a command is answered so; ATTENTION_WRITE clears the causes written 1 and no
other; REGISTER_WRITE_NO_EFFECT completes without error and BAD_REGISTER_ACCESS with one, and neither changes anything
else (R168, R169, R170, R172, R177, spec 10.6). That a read which changes nothing is no command is the model's form
(log 15). -/
def Obligations.RegisterWindow : Prop :=
  (∀ a : RegisterAccess, a.bad = true ↔ a.width ≠ 4 ∨ a.offset.toNat % 4 ≠ 0) ∧
  (∀ s : State,
    readRegister s 0 = 0x5C160002#32 ∧
    readRegister s 1 = s.control.anchor.extractLsb' 0 32 ∧ readRegister s 2 = s.control.anchor.extractLsb' 32 32 ∧
    readRegister s 4 = s.control.attention.setWidth 32 ∧ readRegister s 5 = s.control.enable.setWidth 32 ∧
    readRegister s 6 = s.timebase.count.extractLsb' 0 32 ∧ readRegister s 7 = s.timebase.timeHi) ∧
  (∀ s : State, s.control.resetLow = false →
    (∀ v : Word32, ∃ a : BitVec 7,
      exec (.attentionWrite v) s = .next { s with control := { s.control with attention := a, response := some .written } } ∧
      ∀ i < 7, a.getLsbD i = (s.control.attention.getLsbD i && !v.getLsbD i)) ∧
    (∀ r v, exec (.registerWriteNoEffect r v) s =
      .next { s with control := { s.control with response := some .written } }) ∧
    (∀ a, a.bad = true →
      exec (.badRegisterAccess a) s = .next { s with control := { s.control with response := some .error } })) ∧
  (∀ (a : RegisterAccess) (s : State),
    (a.bad = true ∨ s.control.resetLow = true → answerAccess a s = .error) ∧
    (a.bad = false → s.control.resetLow = false →
      (a.write = true → answerAccess a s = .written) ∧
      (a.write = false → ∀ n : Fin 8, a.offset.toNat = 4 * n.val → answerAccess a s = .data (readRegister s n))) ∧
    (∀ v pins,
      (∀ c, decodeAccess a v pins = some c →
        ∃ t, exec c s = .next t ∧ t.control.response = some (answerAccess a s)) ∧
      (decodeAccess a v pins = none → a.bad = false ∧ a.write = false ∧ a.offset.toNat ≠ 0x18)))

/-- A read of CONTROL: the five items of R171 at the places of spec 10.6, every other bit 0. That the read is no
command, and so changes nothing, is the model's form of a register read (log 15). -/
def Obligations.ControlReadShowsFiveItems : Prop :=
  ∀ s : State,
    (readRegister s 3).extractLsb' 8 2 =
      (match s.control.device with
        | .stopped => 0#2
        | .running => 1#2
        | .halted => 2#2) ∧
    (readRegister s 3).getLsbD 12 = s.scanner.scan.isSome ∧ (readRegister s 3).getLsbD 13 = s.scanner.pending ∧
    (readRegister s 3).getLsbD 14 = s.control.runRefused ∧
    (readRegister s 3).getLsbD 15 = decide (s.control.anchor ≠ 0) ∧
    (readRegister s 3).extractLsb' 0 8 = 0 ∧ (readRegister s 3).extractLsb' 10 2 = 0 ∧
    (readRegister s 3).extractLsb' 16 16 = 0 ∧
    (∀ v pins, decodeAccess ⟨0x0C, 4, false⟩ v pins = none)

/-- TIME_LO_READ: the low half is returned and the high half of the same count latched, in every device state; a write of
TIME_LO changes neither (R9). -/
def Obligations.TimeLoReadLatchesHighHalf : Prop :=
  ∀ s : State, s.control.resetLow = false →
    exec .timeLoRead s = .next
      { s with timebase := { s.timebase with timeHi := s.timebase.count.extractLsb' 32 32 }
               control := { s.control with response := some (.data (s.timebase.count.extractLsb' 0 32)) } } ∧
    (∀ v, exec (.registerWriteNoEffect .timeLo v) s =
      .next { s with control := { s.control with response := some .written } }) ∧
    (∀ v pins, decodeAccess ⟨0x18, 4, false⟩ v pins = some .timeLoRead) ∧
    (∀ v pins, decodeAccess ⟨0x18, 4, true⟩ v pins = some (.registerWriteNoEffect .timeLo v))

/-- ANCHOR_LO_WRITE and ANCHOR_HI_WRITE, and what the resets do to ANCHOR (R170). -/
def Obligations.AnchorWrites : Prop :=
  ∀ (s : State) (v : Word32),
    (s.control.resetLow = false → s.control.device = .stopped →
      exec (.anchorLoWrite v) s = .next
        { s with control :=
          { s.control with
            anchor := (s.control.anchor.extractLsb' 32 32 ++ v.extractLsb' 11 21 ++ 0#11 : BitVec 64)
            response := some .written } } ∧
      exec (.anchorHiWrite v) s = .next
        { s with control :=
          { s.control with
            anchor := (v ++ s.control.anchor.extractLsb' 0 32 : BitVec 64)
            response := some .written } }) ∧
    (s.control.resetLow = false → s.control.device ≠ .stopped →
      exec (.anchorLoWrite v) s = .next { s with control := { s.control with response := some .written } } ∧
      exec (.anchorHiWrite v) s = .next { s with control := { s.control with response := some .written } }) ∧
    (s.control.resetLow = false → ∃ t, exec .reset s = .next t ∧ t.control.anchor = s.control.anchor) ∧
    (∃ t, exec (.powerOnReset .low) s = .next t ∧ t.control.anchor = 0)

/-- ATTN_ENABLE_WRITE replaces the seven enables, RESET keeps them, a power-on reset clears them, ATTN_N is low exactly
while RESET_N is high and some cause is set with its enable set, and a cause is recorded whatever the enables (R178). -/
def Obligations.AttnEnableAndLine : Prop :=
  ∀ (s : State) (v : Word32),
    (s.control.resetLow = false →
      exec (.attnEnableWrite v) s = .next
        { s with control := { s.control with enable := v.extractLsb' 0 7, response := some .written } }) ∧
    readRegister s 5 = s.control.enable.setWidth 32 ∧
    (s.control.resetLow = false → ∃ t, exec .reset s = .next t ∧ t.control.enable = s.control.enable) ∧
    (∃ t, exec (.powerOnReset .low) s = .next t ∧ t.control.enable = 0) ∧
    (attnPin s = false ↔
      s.control.resetLow = false ∧ ∃ i < 7, s.control.attention.getLsbD i = true ∧ s.control.enable.getLsbD i = true) ∧
    (∀ c, raiseAttention c s = withCause c s ∧ (raiseAttention c s).attends c = true)

/-! ## RUN, STOP, SCAN, the resets -/

/-- RUN. With ANCHOR 0 in STOPPED, and with a DEVICE kind in the fault word in HALTED, it is refused: RUN_REFUSED is
set and nothing else changes; in RUNNING it is ignored; a quiet port grants nothing (R172, R173, R174). An accepted
RUN makes the device RUNNING and clears RUN_REFUSED; from STOPPED the detectors take the pins as their references and
the starting count is no boundary (R87, R5), from HALTED they keep theirs; a summary write is formed and the scanner
is triggered. That the summary stands in class 5 before the writes of a scan that ends at once is the model's choice
(log 36). -/
def Obligations.RunJudged : Prop :=
  (∀ (r : Response) (v : State), respond r v = { v with control := { v.control with response := some r } }) ∧
  ∀ (s : State) (pins : Word16), s.control.resetLow = false →
    let deviceKind := ∃ k : FaultKind, faultWordHas s.faults.word k = true ∧ (s.faults.policy.get k.code).cls = .device
    (PortQuiet s →
      (s.control.device = .stopped → s.control.anchor = 0 →
        exec (.run pins) s = .next
          { s with control := { s.control with runRefused := true, response := some .written } }) ∧
      (s.control.device = .running →
        exec (.run pins) s = .next { s with control := { s.control with response := some .written } }) ∧
      (s.control.device = .halted → deviceKind →
        exec (.run pins) s = .next
          { s with control := { s.control with runRefused := true, response := some .written } })) ∧
    (s.control.device = .stopped → s.control.anchor ≠ 0 →
      exec (.run pins) s = .next (respond .written (servePort (scanTrigger (formSummary
        { s with
          timebase := { s.timebase with boundary := false }
          probes := { s.probes with detectors := Table.tab fun p => ⟨some (pins.getLsbD p.val), none, none⟩ }
          control := { s.control with device := .running, runRefused := false } }))))) ∧
    (s.control.device = .halted → ¬deviceKind →
      exec (.run pins) s = .next (respond .written (servePort (scanTrigger (formSummary
        { s with control := { s.control with device := .running, runRefused := false } })))))

/-- STOP: ignored in STOPPED; in RUNNING and HALTED every track that is not OFF or HALTED is aborted, with its entries
purged, its segments cut with their CUT records and counts, its windows closed with DEVICE_STOP and the summaries of
those with no record pending requested, its listener disarmed, an edge or timeout of this tick that has not reached
the engine without effect, the anchor as it was before an await that resolved at this tick and was taken ahead of a
directive, any read in flight marked for discard, its other items kept, its lanes released and its status write
formed, and a summary write is formed (R172, R175, R33, R34, R35, R38, R40, R42, R106, R107, R143); the other windows,
listeners and lanes stay, with every cause that was set and the enables (R175, R177). The capture queue, the requests
that wait in classes 1, 2 and 4, the access in flight and the results that wait are kept (R94, R95, R100, R148). A
drain in progress is answered ENDED_BY_ABORT with detail 0 (R157, R167). The order of the summaries is the model's
(log 10). What the tick still owed is dropped, and status writes stand where the model forms them (log 7, log 21), and
when an outcome reaches its engine is its own (log 30). -/
def Obligations.StopEndsTracks : Prop :=
  ∀ s : State, s.control.resetLow = false →
    (s.control.device = .stopped → exec .stop s = .next (respond .written (servePort s))) ∧
    (s.control.device ≠ .stopped →
      ∃ u : State, exec .stop s = .next (respond .written (servePort (formSummary u))) ∧
        u.control = { s.control with device := .stopped, runRefused := false, attention := u.control.attention } ∧
        RaisesOnly [.retired] s u ∧
        u.timebase = { s.timebase with boundary := false } ∧ u.faults = s.faults ∧ u.scanner = s.scanner ∧
        u.gangs = s.gangs ∧ u.memory = s.memory ∧
        u.queue.entries = s.queue.entries.filter (fun e => !(s.tracks.get e.track).state.alive) ∧
        (∀ t, (s.tracks.get t).state.alive = true →
          u.tracks.get t = { trackEnded t s with state := .off } ∧ StatusFormed t u) ∧
        (∀ t, (s.tracks.get t).state.alive = false → u.tracks.get t = s.tracks.get t) ∧
        (∀ l, u.lanes.get l =
          match (s.lanes.get l).owner with
          | some t =>
            if (s.tracks.get t).state.alive = true then
              { s.lanes.get l with owner := none, level := (s.lanes.get l).safe, returnEdge := none }
            else s.lanes.get l
          | none => s.lanes.get l) ∧
        (∀ p, (∃ t, (s.probes.windows.get p).owner = some t ∧ (s.tracks.get t).state.alive = true) →
          (s.probes.windows.get p).state = .isOpen →
          u.probes.windows.get p =
            { s.probes.windows.get p with
              state := .closing, cause := some .deviceStop, closeTime := s.timebase.count }) ∧
        (∀ p, (s.probes.windows.get p).state ≠ .isOpen ∨
            (∀ t, (s.probes.windows.get p).owner = some t → (s.tracks.get t).state.alive = false) →
          u.probes.windows.get p = s.probes.windows.get p) ∧
        (∀ p t, (s.probes.listeners.get p).armed = true → (s.probes.listeners.get p).owner = some t →
          (s.tracks.get t).state.alive = true →
          u.probes.listeners.get p = { s.probes.listeners.get p with armed := false, owner := none, timeout := none }) ∧
        (∀ p, (s.probes.listeners.get p).armed = false ∨
            (∀ t, (s.probes.listeners.get p).owner = some t → (s.tracks.get t).state.alive = false) →
          u.probes.listeners.get p = s.probes.listeners.get p) ∧
        (∀ p, (u.probes.detectors.get p).reference = (s.probes.detectors.get p).reference) ∧
        (∀ t, (s.tracks.get t).state.alive = true → PurgedAndCut t s u) ∧
        (∀ t, (s.tracks.get t).state.alive = false → u.port.tracks.get t = s.port.tracks.get t) ∧
        (∀ q t, s.directives.drain = some ⟨q, t⟩ → (s.tracks.get t).state.alive = true →
          u.directives.drain = none ∧ .result ⟨q, .endedByAbort, 0, s.timebase.count⟩ ∈ u.port.out) ∧
        (s.directives.drain = none → u.directives = s.directives) ∧
        u.port.summaries = s.port.summaries ++
          (allTracks.filter fun t => (s.tracks.get t).state.alive).flatMap
            (fun t => closingSummaries (ownedBy t) .deviceStop s) ∧
        QueuesKept s u)

/-- SCAN and a frame boundary at the scanner: nothing with ANCHOR 0, a pending scan or a skipped one while a scan is
in progress (R134, R135), and otherwise a scan that remembers the slots that are HELD. It begins with the directive
slot read when no result write waits or is in flight, and with the link phase, or its end, when one does (R136, R137).
A boundary that is not owed starts nothing, and which results are outstanding, are the model's choices (log 3, log
13). -/
def Obligations.ScanTriggers : Prop :=
  ∀ s : State,
    (s.control.resetLow = false →
      exec .scan s = .next
        (respond .written (servePort (scanTrigger { s with control := { s.control with runRefused := false } })))) ∧
    (s.counting = true → s.timebase.boundary = true →
      exec .frameBoundary s = .next (servePort (frameTrigger { s with timebase := { s.timebase with boundary := false } }))) ∧
    (s.counting = true → s.timebase.boundary = false → exec .frameBoundary s = .next (servePort s)) ∧
    (s.control.anchor = 0 → scanTrigger s = s ∧ frameTrigger s = s) ∧
    (s.control.anchor ≠ 0 → s.scanner.scan.isSome = true →
      scanTrigger s = { s with scanner := { s.scanner with pending := true } } ∧
      frameTrigger s = { s with scanner := { s.scanner with skipped := s.scanner.skipped + 1 } }) ∧
    (s.control.anchor ≠ 0 → s.scanner.scan = none → resultOutstanding s = false →
      ∃ held, IsHeldSet s held ∧
        scanTrigger s =
          { s with scanner := { s.scanner with scan := some held }
                   port := { s.port with scanRead := some .directiveSlot } } ∧
        frameTrigger s = scanTrigger s) ∧
    (s.control.anchor ≠ 0 → s.scanner.scan = none → resultOutstanding s = true →
      ∃ held, IsHeldSet s held ∧
        scanTrigger s = continueScan (fun h u => nextLinkRead h 0 u)
          { s with scanner := { s.scanner with scan := some held } } ∧
        frameTrigger s = scanTrigger s) ∧
    (resultOutstanding s = true ↔
      (∃ r, .result r ∈ s.port.out) ∨ ∃ f r, s.port.inFlight = some f ∧ f.access = .out (.result r))

/-- The phases of a scan after the slot: the link word of the lowest PARKED track from the given one on, then the flag
of the lowest slot that was HELD at the start (R137); when no read is left the scan ends, with a summary write and a
status write for whatever differs from its last image, and a pending scan then starts at the same event (R136, R142,
R143). The order of these writes in class 5, which results are outstanding, and that no pending scan starts with
ANCHOR 0 are the model's choices (log 12, log 13, log 33). -/
def Obligations.ScanOrder : Prop :=
  (∀ (held : BitVec 32) (n : Nat) (s : State) (t : TrackId), n ≤ t.val → (s.tracks.get t).state = .parked →
    (∀ x : TrackId, n ≤ x.val → x < t → (s.tracks.get x).state ≠ .parked) →
    nextLinkRead held n s = some (.link t (s.tracks.get t).segment)) ∧
  (∀ (held : BitVec 32) (n : Nat) (s : State), (∀ t : TrackId, n ≤ t.val → (s.tracks.get t).state ≠ .parked) →
    nextLinkRead held n s = nextFlagRead held 0) ∧
  (∀ (held : BitVec 32) (n : Nat) (i : SlotId), n ≤ i.val → held.getLsbD i.val = true →
    (∀ x : SlotId, n ≤ x.val → x < i → held.getLsbD x.val = false) → nextFlagRead held n = some (.heldFlag i)) ∧
  (∀ (held : BitVec 32) (n : Nat), (∀ i : SlotId, n ≤ i.val → held.getLsbD i.val = false) → nextFlagRead held n = none) ∧
  (∀ (s : State) (held : BitVec 32) (next : BitVec 32 → State → Option ScanRead), s.scanner.scan = some held →
    (∀ r, next held s = some r → continueScan next s = { s with port := { s.port with scanRead := some r } }) ∧
    (next held s = none →
      (s.scanner.pending = false → continueScan next s = scanEnded s) ∧
      (s.scanner.pending = true →
        let e : State := { scanEnded s with scanner := { s.scanner with scan := none, pending := false } }
        (s.control.anchor = 0 → continueScan next s = e) ∧
        (s.control.anchor ≠ 0 → ∃ again, IsHeldSet s again ∧
          let b : State := { e with scanner := { e.scanner with scan := some again } }
          (resultOutstanding s = false →
            continueScan next s = { b with port := { b.port with scanRead := some .directiveSlot } }) ∧
          (resultOutstanding s = true →
            (∀ r, nextLinkRead again 0 s = some r →
              continueScan next s = { b with port := { b.port with scanRead := some r } }) ∧
            (nextLinkRead again 0 s = none → continueScan next s = e)))))) ∧
  (∀ s : State,
    (∀ t, s.port.lastStatus.get t = some (statusImage (s.tracks.get t))) →
    (s.port.lastSummary = some (summaryImage s) →
      scanEnded s = { s with scanner := { s.scanner with scan := none } }) ∧
    (s.port.lastSummary ≠ some (summaryImage s) →
      scanEnded s = formSummary { s with scanner := { s.scanner with scan := none } })) ∧
  (∀ (s : State) (t : TrackId), s.port.lastSummary = some (summaryImage s) →
    s.port.lastStatus.get t ≠ some (statusImage (s.tracks.get t)) →
    (∀ x, x ≠ t → s.port.lastStatus.get x = some (statusImage (s.tracks.get x))) →
    scanEnded s = formStatus t { s with scanner := { s.scanner with scan := none } })

/-- RESET: every block at its reset values, ANCHOR and ATTN_ENABLE kept, the access in flight left to complete without
its requester, memory untouched (R179, R149). The model's own items take nothing with them (log 16). -/
def Obligations.DeviceReset : Prop :=
  ∀ s : State, s.control.resetLow = false →
    exec .reset s = .next
      { State.reset with
        port := { Port.reset with inFlight := s.port.inFlight.map fun f => { f with orphan := true } }
        control := { Control.reset with
          anchor := s.control.anchor, enable := s.control.enable, response := some .written }
        memory := s.memory
        pending := s.pending }

/-- RESET_N low: the blocks at their reset values with ANCHOR and ATTN_ENABLE 0, the window answering every access,
read or write, with an error, the count and the port standing still, every lane floating and ATTN_N high; RESET_N high
lets the device go in STOPPED (R180, R12, R65, R150, R168, R178). The two phases are the model's form of the pin, and
a read answered aside of the commands its form of a read (log 14, log 15). -/
def Obligations.PowerOnReset : Prop :=
  (∀ s : State, exec (.powerOnReset .low) s = .next
    { State.reset with
      port := { Port.reset with inFlight := s.port.inFlight.map fun f => { f with orphan := true } }
      control := { Control.reset with resetLow := true }
      memory := s.memory
      pending := s.pending }) ∧
  (∀ s : State, exec (.powerOnReset .high) s = .next { s with control := { s.control with resetLow := false } }) ∧
  (∀ s : State, s.control.resetLow = true →
    (∀ c, IsAccess c = true → exec c s = .next { s with control := { s.control with response := some .error } }) ∧
    (∀ c, IsTickEvent c = true → exec c s = .next s) ∧
    (∀ a, answerAccess a s = .error) ∧
    servePort s = s ∧ (∀ l, lanePin s l = .float ∧ tickPin s l = .float) ∧ attnPin s = true)

/-! ## Completions in general -/

/-- A completion after a reset: the write in flight is in memory, and nothing else changes (R149), but for a scan's
read that fails, which raises BUS_READ with the context of what it was issued for (R133, R145) unless RESET_N is low
(R180); the port then grants. Which failed read raises the fault is the model's reading of R133 beside R149 (log 31,
DEDUCED). A completion command while its access is not in flight is no event, which is the model's choice (log 3). -/
def Obligations.CompletionsWithoutRequester : Prop :=
  (∀ (c : Instr) (s : State) (x : PortAccess) (a : Address) (b : Bool),
    s.port.inFlight = some ⟨x, a, true⟩ → completes c x = some b →
    IsFailedScanRead c = false ∨ s.control.resetLow = true →
    exec c s = .next (servePort (if b = true then stored a x.bytes (released s) else released s))) ∧
  (∀ (s : State) (a : Address), s.control.resetLow = false →
    let fails := fun (x : ScanRead) (c : Instr) (f : FaultContext) =>
      s.port.inFlight = some ⟨.scan x, a, true⟩ → exec c s = .next (servePort (raiseFault .busRead f (released s)))
    let area : FaultContext := ⟨none, 0, none, a, none, 0, s.timebase.count⟩
    fails .directiveSlot (.directiveSlotReadDone .error) area ∧
    (∀ t q, fails (.descriptor t q) (.startTrack .error) area) ∧
    (∀ t x, fails (.link t x) (.scanLinkReadDone .error) ⟨some t, 0, none, x, none, 0, s.timebase.count⟩) ∧
    (∀ n, fails (.heldFlag n) (.heldFlagReadDone .error) area)) ∧
  (∀ (c : Instr) (s : State), IsCompletion c = true →
    (∀ f, s.port.inFlight = some f → completes c f.access = none) → exec c s = .next s)

/-- What is stored: the bytes of the record from its address upward, every other byte of memory as before, in
canonical form (R130; the memory image is the model's, log 1). The seven kinds of record have the sizes and the fields
of spec 10.3 to 10.5, little-endian, with 0 in reserved bytes, FFh for an absent index and 0 for an absent address or
instant (R181, R182), and the named values have the codes of spec 10.2 and R151. -/
def Obligations.StoreWritesRecord : Prop :=
  (∀ (m : Memory) (a : Address) (bs : List Byte), a.toNat + bs.length ≤ 2 ^ 64 →
    (∀ i, a.toNat ≤ i → i < a.toNat + bs.length → (Memory.store m a bs).read i = bs[i - a.toNat]?) ∧
    (∀ i, i < a.toNat ∨ a.toNat + bs.length ≤ i → (Memory.store m a bs).read i = m.read i) ∧
    (m.wf → (Memory.store m a bs).wf)) ∧
  CodeTable ∧
  (∀ r : RetireRecord, HasLayout r.bytes 32
    [(0x00, 1, r.outcome.code), (0x01, 3, 0), (0x04, 4, r.passes.toNat), (0x08, 4, r.dispatched.toNat),
     (0x0C, 4, r.dropped.toNat), (0x10, 8, r.time.toNat), (0x18, 8, 0)]) ∧
  (∀ r : CaptureRecord, HasLayout r.bytes 16
    [(0x00, 8, r.time.toNat), (0x08, 2, r.index), (0x0A, 1, r.polarity.code), (0x0B, 1, r.probe.val), (0x0C, 4, 0)]) ∧
  (∀ h : BucketHeader, HasLayout h.bytes 64
    [(0x00, 1, h.cause.code), (0x01, 1, h.probe.val), (0x02, 1, h.edge.code), (0x03, 1, 0), (0x04, 2, h.count),
     (0x06, 2, 0), (0x08, 4, h.suppressed.toNat), (0x0C, 4, h.lost.toNat), (0x10, 8, wordOr0 h.firstTime),
     (0x18, 8, wordOr0 h.lastTime), (0x20, 8, h.openTime.toNat), (0x28, 8, h.closeTime.toNat), (0x30, 16, 0)]) ∧
  (∀ i : Incident, HasLayout i.bytes 32
    [(0x00, 1, 1), (0x01, 1, i.kind.code.val), (0x02, 1, i.cls.code), (0x03, 1, indexOrFF i.context.track),
     (0x04, 4, i.sequence.toNat), (0x08, 1, indexOrFF i.context.probe), (0x09, 1, i.context.index.getD 0xFF),
     (0x0A, 2, i.context.lanes.toNat), (0x0C, 4, i.context.pass.toNat), (0x10, 8, i.context.segment.toNat),
     (0x18, 8, i.context.time.toNat)]) ∧
  (∀ r : DirectiveResult, HasLayout r.bytes 16
    [(0x00, 2, r.sequence.toNat), (0x02, 1, r.outcome.code), (0x03, 1, 0), (0x04, 4, r.detail.toNat),
     (0x08, 8, r.time.toNat)]) ∧
  (∀ (g : Word32) (n : Instant) (i : SummaryImage), HasLayout (summaryBytes g n i) 128
    [(0x00, 4, g.toNat), (0x04, 1, i.device.code), (0x05, 1, i.first.valid.toNat), (0x06, 2, 0), (0x08, 8, n.toNat),
     (0x10, 2, i.word.toNat), (0x12, 2, 0), (0x14, 4, i.masked.toNat), (0x18, 8, i.sequence.toNat),
     (0x20, 8, i.lost.toNat), (0x28, 4, i.skippedScans.toNat), (0x2C, 4, i.markTag.toNat), (0x30, 8, i.markTime.toNat),
     (0x38, 8, i.first.sequence.toNat), (0x40, 1, i.first.kind.code.val), (0x41, 1, i.first.cls.code),
     (0x42, 1, indexOrFF i.first.context.track), (0x43, 1, indexOrFF i.first.context.probe),
     (0x44, 2, i.first.context.lanes.toNat), (0x46, 1, i.first.context.index.getD 0xFF), (0x47, 1, 0),
     (0x48, 4, i.first.context.pass.toNat), (0x4C, 4, 0), (0x50, 8, i.first.context.segment.toNat),
     (0x58, 8, i.first.context.time.toNat), (0x60, 32, 0)]) ∧
  (∀ i : StatusImage, HasLayout i.bytes 64
    [(0x00, 1, i.state.code), (0x01, 1, indexOrFF (i.haltKind.map FaultKind.code)), (0x02, 1, i.quota),
     (0x03, 1, i.retireNotifyAll.toNat + 2 * i.keepTotals.toNat), (0x04, 1, i.queued), (0x05, 1, i.openSegments),
     (0x06, 1, i.stallQuota.toNat + 2 * i.stallSegments.toNat + 4 * i.stallPort.toNat),
     (0x07, 1, i.rejectedLink.isSome.toNat + 2 * i.pendingLink.isSome.toNat), (0x08, 1, i.cursor), (0x09, 3, 0),
     (0x0C, 4, i.pass.toNat), (0x10, 8, i.segment.toNat), (0x18, 8, i.anchor.toNat), (0x20, 8, wordOr0 i.rejectedLink),
     (0x28, 8, wordOr0 i.pendingLink), (0x30, 4, i.dispatchedTotal.toNat), (0x34, 4, i.droppedTotal.toNat),
     (0x38, 8, 0)])

/-! ## The arbiter and the port -/

/-- The port grants at most one request when it is idle and RESET_N is high, and none otherwise (R131, R150); with
ANCHOR 0 an exchange-area access completes with an error at its grant, with the consequence of its purpose and its
fault as at any failed completion (R124, R126, R138, R139, R145, R146, R147, R153), and the next is granted, while any
other access is issued (R129, R130). Which accesses are of the exchange area, and the address of every access (R129,
R99, R21, R34, spec 10.3 to 10.5). That the grant comes at the end of an event, that one event completes at most 512
accesses so, and that a scan goes on after the fault of its failed read, are the model's readings (log 6, log 9, log
18). -/
def Obligations.PortGrants : Prop :=
  (∀ s : State, s.control.anchor ≠ 0 → servePort s = granted s) ∧
  (∀ s : State, PortQuiet s → servePort s = s) ∧
  Config.serviceBound = 512 ∧
  (∀ s : State, servePort s = serve Config.serviceBound s ∧ serve 0 s = s ∧
    ∀ n, PortQuiet s ∨ s.control.resetLow = true → serve n s = s) ∧
  (∀ (n : Nat) (s : State) (x : PortAccess), s.port.inFlight = none → s.control.resetLow = false →
    s.control.anchor = 0 → nextAccess s.probes.captures s.port = some x →
    (x.inArea = true →
      serve (n + 1) s = serve n (failAccess x (x.address 0) { s with port := removeGranted x s.port })) ∧
    (x.inArea = false →
      serve (n + 1) s = { s with port := { removeGranted x s.port with inFlight := some ⟨x, x.address 0, false⟩ } })) ∧
  (∀ (s : State) (a : Address),
    let area : FaultContext := ⟨none, 0, none, a, none, 0, s.timebase.count⟩
    let linksNext := continueScan fun held v => nextLinkRead held 0 v
    (∀ w, failAccess (.incident w) a s =
      takeFault .busWrite area true
        { s with faults := { s.faults with slots := s.faults.slots.put w.slot .held, lost := add64 s.faults.lost 1 } }) ∧
    failAccess (.scan .directiveSlot) a s = linksNext (raiseFault .busRead area s) ∧
    (∀ t q, s.directives.drain = none →
      failAccess (.scan (.descriptor t q)) a s =
        linksNext (raiseFault .busRead area (withResult q .refusedArgument 3 s))) ∧
    (∀ t q r, s.directives.drain = some r →
      failAccess (.scan (.descriptor t q)) a s =
        linksNext (raiseFault .busRead area (withResult q .overlap (BitVec.ofNat 32 r.sequence.toNat) s))) ∧
    (∀ n, failAccess (.scan (.heldFlag n)) a s =
      continueScan (fun held _ => nextFlagRead held (n.val + 1)) (raiseFault .busRead area s)) ∧
    (∀ r, failAccess (.out (.result r)) a s = raiseFault .busWrite area (withCause .directive s)) ∧
    (∀ g n i, failAccess (.out (.summary g n i)) a s =
      raiseFault .busWrite area { s with port := { s.port with lastSummary := none } }) ∧
    (∀ t i, failAccess (.out (.status t i)) a s =
      raiseFault .busWrite ⟨some t, 0, none, a, none, 0, s.timebase.count⟩
        { s with port := { s.port with lastStatus := s.port.lastStatus.put t none } })) ∧
  (∀ x : PortAccess, x.inArea = true ↔
    (∃ w, x = .incident w) ∨ x = .scan .directiveSlot ∨ (∃ t q, x = .scan (.descriptor t q)) ∨
      (∃ n, x = .scan (.heldFlag n)) ∨ ∃ w, x = .out w) ∧
  (∀ A : Address, A.toNat + 0x740 ≤ 2 ^ 64 →
    (PortAccess.address A (.scan .directiveSlot)).toNat = A.toNat ∧
    (∀ r, (PortAccess.address A (.out (.result r))).toNat = A.toNat + 0x020) ∧
    (∀ g n i, (PortAccess.address A (.out (.summary g n i))).toNat = A.toNat + 0x040) ∧
    (∀ t q, (PortAccess.address A (.scan (.descriptor t q))).toNat = A.toNat + 0x0C0 + 16 * t.val) ∧
    (∀ t i, (PortAccess.address A (.out (.status t i))).toNat = A.toNat + 0x140 + 64 * t.val) ∧
    (∀ w, (PortAccess.address A (.incident w)).toNat = A.toNat + 0x340 + 32 * w.slot.val) ∧
    (∀ n, (PortAccess.address A (.scan (.heldFlag n))).toNat = A.toNat + 0x340 + 32 * n.val)) ∧
  (∀ (A a : Address) (t : TrackId) (p g : Word32),
    PortAccess.address A (.track t (.header a p g)) = a ∧
    (∀ m, PortAccess.address A (.track t (.link a m p g)) = a) ∧ PortAccess.address A (.scan (.link t a)) = a ∧
    (∀ i : Nat, a.toNat + 64 + 32 * i < 2 ^ 64 →
      (PortAccess.address A (.track t (.action a i p g))).toNat = a.toNat + 64 + 32 * i) ∧
    (∀ r, a.toNat + 0x20 < 2 ^ 64 → (PortAccess.address A (.track t (.retire a r))).toNat = a.toNat + 0x20) ∧
    (∀ w, PortAccess.address A (.bucketSummary w) = w.bucket) ∧
    (∀ r : CaptureRecord, r.bucket.toNat + 64 + 16 * r.index < 2 ^ 64 →
      (PortAccess.address A (.capture r)).toNat = r.bucket.toNat + 64 + 16 * r.index))

/-- The order of the classes, and the round robin of class 3: a track's requests are served oldest first, and the
pointer starts at T7 (R131, R132). A granted request leaves its class and nothing else of the port changes, but for
the pointer; a capture record stays at the head of the capture queue until its write completes (R98, R131, R132,
R144). -/
def Obligations.ArbiterOrder : Prop :=
  (∀ (t : TrackId) (r : TrackRequest) (s : State), requestTrack t r s = withRequest t r s) ∧
  Port.reset.roundRobin = 7 ∧
  (∀ p : Port,
    (∀ w, removeGranted (.bucketSummary w) p = { p with summaries := p.summaries.tail }) ∧
    (∀ r, removeGranted (.capture r) p = p) ∧
    (∀ w, removeGranted (.incident w) p = { p with incidents := p.incidents.tail }) ∧
    (∀ t r, removeGranted (.track t r) p =
      { p with tracks := p.tracks.put t (p.tracks.get t).tail, roundRobin := t }) ∧
    (∀ r, removeGranted (.scan r) p = { p with scanRead := none }) ∧
    (∀ w, removeGranted (.out w) p = { p with out := p.out.tail })) ∧
  ∀ (cs : List CaptureRecord) (p : Port),
    (∀ w ws, p.summaries = w :: ws → nextAccess cs p = some (.bucketSummary w)) ∧
    (∀ r rs, p.summaries = [] → cs = r :: rs → nextAccess cs p = some (.capture r)) ∧
    (∀ w ws, p.summaries = [] → cs = [] → p.incidents = w :: ws → nextAccess cs p = some (.incident w)) ∧
    (∀ (d : Fin 8) (r : TrackRequest) (rs : List TrackRequest), p.summaries = [] → cs = [] → p.incidents = [] →
      p.tracks.get (p.roundRobin + 1 + d) = r :: rs →
      (∀ e : Fin 8, e < d → p.tracks.get (p.roundRobin + 1 + e) = []) →
      nextAccess cs p = some (.track (p.roundRobin + 1 + d) r) ∧
      (removeGranted (.track (p.roundRobin + 1 + d) r) p).roundRobin = p.roundRobin + 1 + d ∧
      (removeGranted (.track (p.roundRobin + 1 + d) r) p).tracks.get (p.roundRobin + 1 + d) = rs) ∧
    (p.summaries = [] → cs = [] → p.incidents = [] → (∀ t, p.tracks.get t = []) →
      (∀ r, p.scanRead = some r → nextAccess cs p = some (.scan r)) ∧
      (∀ w ws, p.scanRead = none → p.out = w :: ws → nextAccess cs p = some (.out w)) ∧
      (p.scanRead = none → p.out = [] → nextAccess cs p = none))

/-- What a summary write and a status write hold: the device state, the fault collector's items, the skipped scans and
the last MARK (R141); the items of the track, with the number of its open segments (R143, R13). The forming of each: a
waiting one is refreshed in its place, else a new one joins the end of class 5; the image is kept (R142, R143, R144).
-/
def Obligations.OutWritesFormed : Prop :=
  (∀ s : State, summaryImage s =
    { device := s.control.device, word := s.faults.word, first := s.faults.first, sequence := s.faults.sequence
      lost := s.faults.lost, masked := s.faults.masked, skippedScans := s.scanner.skipped
      markTag := s.queue.markTag, markTime := s.queue.markTime }) ∧
  (∀ k : Track, statusImage k =
    { state := k.state, haltKind := k.haltKind, quota := k.quota, retireNotifyAll := k.retireNotifyAll
      keepTotals := k.keepTotals, queued := k.queued, openSegments := k.openList.length, stallQuota := k.stallQuota
      stallSegments := k.stallSegments, stallPort := k.stallPort, cursor := k.cursor, pass := k.pass
      segment := k.segment, anchor := k.anchor, rejectedLink := k.rejectedLink, pendingLink := k.pendingLink
      dispatchedTotal := k.dispatchedTotal, droppedTotal := k.droppedTotal }) ∧
  ∀ (s : State) (t : TrackId),
    ((∀ w ∈ s.port.out, w.isSummary = false) →
      formSummary s =
        { s with port := { s.port with
            out := s.port.out ++ [.summary (s.port.generation + 1) s.timebase.count (summaryImage s)]
            generation := s.port.generation + 1
            lastSummary := some (summaryImage s) } }) ∧
    ((∃ w ∈ s.port.out, w.isSummary = true) →
      formSummary s =
        { s with port := { s.port with
            out := s.port.out.map fun w =>
              match w with
              | .summary g _ _ => .summary g s.timebase.count (summaryImage s)
              | w => w
            lastSummary := some (summaryImage s) } }) ∧
    ((∀ w ∈ s.port.out, w.isStatusOf t = false) →
      formStatus t s =
        { s with port := { s.port with
            out := s.port.out ++ [.status t (statusImage (s.tracks.get t))]
            lastStatus := s.port.lastStatus.put t (some (statusImage (s.tracks.get t))) } }) ∧
    ((∃ w ∈ s.port.out, w.isStatusOf t = true) →
      formStatus t s =
        { s with port := { s.port with
            out := s.port.out.map fun w =>
              if w.isStatusOf t then .status t (statusImage (s.tracks.get t)) else w
            lastStatus := s.port.lastStatus.put t (some (statusImage (s.tracks.get t))) } })

/-! ## The count -/

/-- COUNT_ADVANCE: one more in RUNNING and HALTED, nothing in STOPPED (R1); the detectors take the pins, and see an
edge where they differ from the references (R86); a multiple of 2^F reached is a boundary (R5). The last two clauses
are the whole effect when no event of the present tick is owed, with the await outcomes handed over at it, if any, and
without. That events still owed are taken before the advance, and that the await outcomes of the tick reach their
engines last, are the model's (log 4, log 30). A sum that leaves 64 bits is the model's free value (log 2); every
other is exact, as the first clause says. -/
def Obligations.CountAdvances : Prop :=
  (∀ s : State, s.counting = true ↔ s.control.device ≠ .stopped ∧ s.control.resetLow = false) ∧
  (∀ (a : Word64) (n : Nat), a.toNat + n < 2 ^ 64 → (add64 a n).toNat = a.toNat + n) ∧
  ∀ (s : State) (pins : Word16),
    (s.counting = false → exec (.countAdvance pins) s = .next s) ∧
    (s.counting = true →
      ∃ t, exec (.countAdvance pins) s = .next t ∧ t.timebase.count = add64 s.timebase.count 1 ∧
        t.timebase.frame = s.timebase.frame ∧ t.timebase.timeHi = s.timebase.timeHi ∧
        (t.timebase.boundary = true ↔ t.timebase.count.toNat % 2 ^ s.timebase.frame = 0) ∧
        ∀ p, (t.probes.detectors.get p).reference = some (pins.getLsbD p.val)) ∧
    (s.counting = true →
      let advanced := fun u : State =>
        { u with
          timebase := { u.timebase with
            count := add64 u.timebase.count 1
            boundary := decide ((add64 u.timebase.count 1).toNat % 2 ^ u.timebase.frame = 0) }
          probes := { u.probes with
            detectors := Table.tab fun p =>
              let edge : Option Polarity :=
                match (u.probes.detectors.get p).reference, pins.getLsbD p.val with
                | some false, true => some .rise
                | some true, false => some .fall
                | _, _ => none
              ⟨some (pins.getLsbD p.val), edge, edge⟩ } }
      (NoEventOwed s →
        exec (.countAdvance pins) s =
          .next (advanced (servePort (allTracks.foldl (fun u t => takeOutcome t u) s)))) ∧
      (NothingOwed s → exec (.countAdvance pins) s = .next (advanced s)))

/-- The next frame boundary after `t` is the smallest multiple of 2^F that is strictly greater than `t`, the start of its
frame plus 2^F, and anchor mode FRAME uses it with `t` now (R6); the sum fits in 64 bits. -/
def Obligations.NextBoundaryIsLeast : Prop :=
  ∀ (F : Nat) (t : Instant), t.toNat + 2 ^ F < 2 ^ 64 →
    (nextBoundary F t).toNat % 2 ^ F = 0 ∧ t.toNat < (nextBoundary F t).toNat ∧
    (∀ m, m % 2 ^ F = 0 → t.toNat < m → (nextBoundary F t).toNat ≤ m) ∧
    (∃ b, b % 2 ^ F = 0 ∧ b ≤ t.toNat ∧ t.toNat < b + 2 ^ F ∧ (nextBoundary F t).toNat = b + 2 ^ F) ∧
    (t.toNat % 2 ^ F = 0 → (nextBoundary F t).toNat = t.toNat + 2 ^ F) ∧
    (∀ (h : Header) (k : Track), entryAnchor .frame h k F t = nextBoundary F t)

/-! ## Lanes -/

/-- RETURN_EDGE_EXPIRY: a return edge whose instant the count has reached sets the lane to its level and leaves none
pending; without one nothing happens (R78). The LANE pins: each holds the level of its lane, and shows for a tick the
level that the last event taken at it leaves, the levels between not appearing (R66). That an expiry not owed is no
event, and that each command is a tick of its own while the count stands still, are the model's choices (log 3, log
27). -/
def Obligations.ReturnEdgeExpires : Prop :=
  (∀ (s : State) (l : LaneId), s.counting = true →
    (∀ r, (s.lanes.get l).returnEdge = some r → r.instant ≤ s.timebase.count →
      exec (.returnEdgeExpiry l) s = .next (servePort
        { s with
          lanes := s.lanes.put l
            { s.lanes.get l with
              level := match r.level with
                | .low => .low
                | .high => .high
              returnEdge := none } })) ∧
    ((∀ r, (s.lanes.get l).returnEdge = some r → s.timebase.count < r.instant) →
      exec (.returnEdgeExpiry l) s = .next (servePort s))) ∧
  (∀ (s : State) (l : LaneId), lanePin s l = if s.control.resetLow = true then .float else (s.lanes.get l).level) ∧
  (∀ (s : State) (l : LaneId) (pins : Word16), s.counting = true →
    ∃ t, exec (.countAdvance pins) s = .next t ∧ (t.lanes.get l).level = tickPin s l) ∧
  (∀ (s : State) (l : LaneId), s.counting = false ∨ NothingOwed s → tickPin s l = lanePin s l) ∧
  (∀ (l : LaneId) (s : State),
    pinRun l [] s = [tickPin s l] ∧
    (∀ c cs t, exec c s = .next t →
      ((∃ pins, c = .countAdvance pins) ∨ s.counting = false → pinRun l (c :: cs) s = tickPin s l :: pinRun l cs t) ∧
      ((∀ pins, c ≠ .countAdvance pins) → s.counting = true → pinRun l (c :: cs) s = pinRun l cs t)))

/-- A SET, CLEAR, TOGGLE, PULSE or RELEASE of lanes its track owns, and a CLAIM of lanes no other track owns: what
each lane of the set becomes; every other lane and everything else stays (R69, R70, R72, R74, R75, R76). A return edge
due sets its level first (R69), a pulse's return instant holds 2^64−1 where the sum would exceed it (R76), and bit n
of a lane set is lane Ln (spec 10.2). -/
def Obligations.LaneHandOffsAccepted : Prop :=
  (∀ (S : LaneSet) (l : LaneId), laneIn S l = S.getLsbD l.val) ∧
  (∀ (now : Instant) (k : Lane),
    (∀ r, k.returnEdge = some r → r.instant ≤ now →
      Lane.expire now k = { k with level := r.level.toLevel, returnEdge := none }) ∧
    ((∀ r, k.returnEdge = some r → now < r.instant) → Lane.expire now k = k)) ∧
  (Drive.low.toLevel = .low ∧ Drive.high.toLevel = .high ∧ Drive.low.opposite = .high ∧ Drive.high.opposite = .low) ∧
  (∀ (a : Word64) (n : Nat),
    (a.toNat + n < 2 ^ 64 → (add64Held a n).toNat = a.toNat + n) ∧
    (2 ^ 64 ≤ a.toNat + n → (add64Held a n).toNat = 2 ^ 64 - 1)) ∧
  ∀ (s : State) (t : TrackId) (S : LaneSet) (g : Address) (i : Nat) (q : Word32) (n : Bool),
    ((∀ l, laneIn S l = true → (s.lanes.get l).owner = some t) →
      handAction ⟨t, .set, S, g, i, q, n⟩ s =
        { s with lanes := Table.tab fun l =>
            if laneIn S l = true then { s.lanes.get l with level := .high, returnEdge := none } else s.lanes.get l } ∧
      handAction ⟨t, .clear, S, g, i, q, n⟩ s =
        { s with lanes := Table.tab fun l =>
            if laneIn S l = true then { s.lanes.get l with level := .low, returnEdge := none } else s.lanes.get l } ∧
      handAction ⟨t, .toggle, S, g, i, q, n⟩ s =
        { s with lanes := Table.tab fun l =>
            if laneIn S l = true then
              { s.lanes.get l with
                level := match (Lane.expire s.timebase.count (s.lanes.get l)).level with
                  | .low => .high
                  | .high => .low
                  | .float => .float
                returnEdge := none }
            else s.lanes.get l } ∧
      (∀ (p : Drive) (w : Word32),
        handAction ⟨t, .pulse p w, S, g, i, q, n⟩ s =
          { s with lanes := Table.tab fun l =>
              if laneIn S l = true then
                { s.lanes.get l with
                  level := p.toLevel, returnEdge := some ⟨add64Held s.timebase.count w.toNat, p.opposite⟩ }
              else s.lanes.get l }) ∧
      handAction ⟨t, .release, S, g, i, q, n⟩ s =
        { s with lanes := Table.tab fun l =>
            if laneIn S l = true then
              { s.lanes.get l with owner := none, level := (s.lanes.get l).safe, returnEdge := none }
            else s.lanes.get l }) ∧
    ((∀ l, laneIn S l = true → (s.lanes.get l).owner = none ∨ (s.lanes.get l).owner = some t) →
      handAction ⟨t, .claim, S, g, i, q, n⟩ s =
        { s with lanes := Table.tab fun l =>
            if laneIn S l = true then
              match (s.lanes.get l).owner with
              | none =>
                { s.lanes.get l with
                  owner := some t
                  level := match (s.lanes.get l).safe with
                    | .float => .low
                    | .low => .low
                    | .high => .high
                  returnEdge := none }
              | some _ => Lane.expire s.timebase.count (s.lanes.get l)
            else s.lanes.get l })

/-- A SET, CLEAR, TOGGLE, PULSE or RELEASE that names a lane its track does not own raises NOT_OWNER, a CLAIM that names a
lane of another track raises CLAIM_CONFLICT, with the offending lanes in the context and no lane driven, released or
claimed; the return edges due are applied (R69, R71, R72, R73, R85). -/
def Obligations.LaneHandOffsRefused : Prop :=
  ∀ (s : State) (t : TrackId) (S : LaneSet) (g : Address) (i : Nat) (q : Word32) (n : Bool),
    let u : State := { s with
      lanes := Table.tab fun l =>
        if laneIn S l = true then Lane.expire s.timebase.count (s.lanes.get l) else s.lanes.get l }
    ((∃ l, laneIn S l = true ∧ (s.lanes.get l).owner ≠ some t) →
      ∃ C : LaneSet, (∀ l, laneIn C l = true ↔ laneIn S l = true ∧ (s.lanes.get l).owner ≠ some t) ∧
        ∀ a : Action, a.isDriving = true ∨ a = .release →
          handAction ⟨t, a, S, g, i, q, n⟩ s =
            raiseFault .notOwner ⟨some t, C, none, g, some i, q, s.timebase.count⟩ u) ∧
    ((∃ l, laneIn S l = true ∧ (s.lanes.get l).owner ≠ some t ∧ (s.lanes.get l).owner ≠ none) →
      ∃ C : LaneSet,
        (∀ l, laneIn C l = true ↔
          laneIn S l = true ∧ (s.lanes.get l).owner ≠ some t ∧ (s.lanes.get l).owner ≠ none) ∧
        handAction ⟨t, .claim, S, g, i, q, n⟩ s =
          raiseFault .claimConflict ⟨some t, C, none, g, some i, q, s.timebase.count⟩ u)

/-! ## Probes -/

/-- OPEN, CLOSE, AWAIT and MARK at their hand-off: the window opened, or PROBE_BUSY; the window closed with CLOSED, or
NOT_OWNER for another track's, or nothing for one that is not OPEN; the listener armed, or BUSY and PROBE_BUSY, or
nothing for a CLOSING track; the mark recorded and raised (R58, R89, R90, R102). The order of the fault and the next
read after BUSY, within the hand-off, is the model's reading (log 7, log 8). -/
def Obligations.ProbeHandOffs : Prop :=
  ∀ (s : State) (t : TrackId) (p : ProbeId) (S : LaneSet) (g : Address) (i : Nat) (q : Word32) (n : Bool),
    let d : Nat → Option Instant := fun span => if span = 0 then none else some (add64 s.timebase.count span)
    let c : FaultContext := ⟨some t, 0, some p, g, some i, q, s.timebase.count⟩
    (∀ (e : EdgeKind) (b : Address) (cap lim span quiet : Nat),
      ((s.probes.windows.get p).state = .free →
        handAction ⟨t, .openWindow p e b cap lim span quiet, S, g, i, q, n⟩ s =
          withWindow p
            { state := .isOpen, owner := some t, edge := e, bucket := b, capacity := cap, limit := lim
              deadline := d span, quiet := quiet, count := 0, suppressed := 0, lost := 0, firstTime := none
              lastTime := none, openTime := s.timebase.count, closeTime := (s.probes.windows.get p).closeTime
              cause := none, pending := 0, notify := n, origin := ⟨g, i, q⟩ } s) ∧
      ((s.probes.windows.get p).state ≠ .free →
        handAction ⟨t, .openWindow p e b cap lim span quiet, S, g, i, q, n⟩ s = raiseFault .probeBusy c s)) ∧
    ((s.probes.windows.get p).state = .isOpen →
      ((s.probes.windows.get p).owner = some t →
        handAction ⟨t, .closeWindow p, S, g, i, q, n⟩ s = closeWindow p .closed s.timebase.count s) ∧
      ((s.probes.windows.get p).owner ≠ some t →
        handAction ⟨t, .closeWindow p, S, g, i, q, n⟩ s = raiseFault .notOwner c s)) ∧
    ((s.probes.windows.get p).state ≠ .isOpen → handAction ⟨t, .closeWindow p, S, g, i, q, n⟩ s = s) ∧
    (∀ (e : EdgeKind) (span : Nat) (pol : TimeoutPolicy),
      ((s.tracks.get t).state = .closing → handAction ⟨t, .await p e span pol, S, g, i, q, n⟩ s = s) ∧
      ((s.tracks.get t).state ≠ .closing → (s.probes.listeners.get p).armed = false →
        handAction ⟨t, .await p e span pol, S, g, i, q, n⟩ s =
          withListener p ⟨true, some t, e, d span, pol, ⟨g, i, q⟩⟩ s) ∧
      ((s.tracks.get t).state ≠ .closing → (s.tracks.get t).state ≠ .awaiting →
        (s.probes.listeners.get p).armed = true →
        handAction ⟨t, .await p e span pol, S, g, i, q, n⟩ s = raiseFault .probeBusy c s) ∧
      ((s.tracks.get t).state = .awaiting → (s.probes.listeners.get p).armed = true →
        handAction ⟨t, .await p e span pol, S, g, i, q, n⟩ s =
          formStatus t (resumeFetch t (raiseFault .probeBusy c
            (withTrack t { s.tracks.get t with state := .active } s))))) ∧
    (∀ tag : Word32, handAction ⟨t, .mark tag, S, g, i, q, n⟩ s =
      withCause .mark { s with queue := { s.queue with markTag := tag, markTime := s.timebase.count } })

/-- A window closes: its cause and time are kept, and its summary is requested as soon as no record of it is in the
capture queue, with the counts and times it holds then (R94, R95). DEADLINE_EXPIRY closes an OPEN window whose
deadline the count has reached, with DEADLINE at the deadline, and one with count 0 raises WINDOW_STARVED; otherwise
nothing happens (R93). That an expiry not owed is no event is the model's choice (log 3). -/
def Obligations.WindowCloses : Prop :=
  ∀ (s : State) (p : ProbeId) (c : CloseCause) (time : Instant),
    let w := s.probes.windows.get p
    let u := withWindow p { w with state := .closing, cause := some c, closeTime := time } s
    (w.state ≠ .isOpen → closeWindow p c time s = s) ∧
    (w.state = .isOpen → w.pending ≠ 0 → closeWindow p c time s = u) ∧
    (w.state = .isOpen → w.pending = 0 →
      closeWindow p c time s =
        { u with port := { u.port with summaries := u.port.summaries ++
            [⟨p, w.bucket,
              { cause := c, probe := p, edge := w.edge, count := w.count, suppressed := w.suppressed, lost := w.lost
                firstTime := w.firstTime, lastTime := w.lastTime, openTime := w.openTime, closeTime := time }⟩] } }) ∧
    (s.counting = true →
      (∀ d, w.state = .isOpen → w.deadline = some d → d ≤ s.timebase.count →
        (w.count ≠ 0 → exec (.deadlineExpiry p) s = .next (servePort (closeWindow p .deadline d s))) ∧
        (w.count = 0 → exec (.deadlineExpiry p) s = .next (servePort (raiseFault .windowStarved
          ⟨w.owner, 0, some p, w.origin.segment, some w.origin.index, w.origin.pass, d⟩
          (closeWindow p .deadline d s))))) ∧
      (w.state ≠ .isOpen ∨ w.deadline = none ∨ (∃ d, w.deadline = some d ∧ s.timebase.count < d) →
        exec (.deadlineExpiry p) s = .next (servePort s)))

/-- PROBE_EDGE at the window: no effect unless it is OPEN and admits the polarity; suppressed within the quiet
interval; lost with CAPTURE_LOSS when the capture queue is full; else admitted, and the window closes with LIMIT or
FULL when the admission reaches its bound (R86, R91, R92). RISE admits RISE, FALL admits FALL and BOTH either (R91);
the counts saturate (R88). -/
def Obligations.EdgeAtWindow : Prop :=
  (∀ (k : EdgeKind) (pol : Polarity),
    k.admits pol = true ↔ k = .both ∨ (k = .rise ∧ pol = .rise) ∨ (k = .fall ∧ pol = .fall)) ∧
  (∀ c : Word32,
    (c.toNat < 2 ^ 32 - 1 → (succ32Sat c).toNat = c.toNat + 1) ∧ (c.toNat = 2 ^ 32 - 1 → succ32Sat c = c)) ∧
  ∀ (s : State) (p : ProbeId) (pol : Polarity), s.counting = true →
    (s.probes.detectors.get p).windowEdge = some pol →
    let w := s.probes.windows.get p
    let now := s.timebase.count
    let u : State := { s with probes := { s.probes with
      detectors := s.probes.detectors.put p { s.probes.detectors.get p with windowEdge := none } } }
    let quiet := ∃ l, w.lastTime = some l ∧ now.toNat < l.toNat + w.quiet
    let full := 32 ≤ s.probes.captures.length
    let k : Window := { w with
      count := w.count + 1, pending := w.pending + 1, lastTime := some now
      firstTime := match w.firstTime with
        | some f => some f
        | none => some now }
    let v : State := withWindow p k
      { u with probes := { u.probes with captures := u.probes.captures ++ [⟨p, w.bucket, w.count, now, pol⟩] } }
    (w.state ≠ .isOpen ∨ w.edge.admits pol = false → exec (.probeEdge p .windowOnly) s = .next (servePort u)) ∧
    (w.state = .isOpen → w.edge.admits pol = true →
      (quiet → exec (.probeEdge p .windowOnly) s =
        .next (servePort (withWindow p { w with suppressed := succ32Sat w.suppressed } u))) ∧
      (¬quiet → full → exec (.probeEdge p .windowOnly) s =
        .next (servePort (raiseFault .captureLoss
          ⟨w.owner, 0, some p, w.origin.segment, some w.origin.index, w.origin.pass, now⟩
          (withWindow p { w with lost := succ32Sat w.lost } u)))) ∧
      (¬quiet → ¬full → (w.limit = 0 ∨ w.count + 1 ≠ w.limit) → w.count + 1 ≠ w.capacity →
        exec (.probeEdge p .windowOnly) s = .next (servePort v)) ∧
      (¬quiet → ¬full → w.limit ≠ 0 → w.count + 1 = w.limit →
        exec (.probeEdge p .windowOnly) s =
          .next (servePort (withWindow p { k with state := .closing, cause := some .limit, closeTime := now } v))) ∧
      (¬quiet → ¬full → (w.limit = 0 ∨ w.count + 1 ≠ w.limit) → w.count + 1 = w.capacity →
        exec (.probeEdge p .windowOnly) s =
          .next (servePort (withWindow p { k with state := .closing, cause := some .full, closeTime := now } v))))

/-- PROBE_EDGE hands an edge to the window, to the listener or to both in either order, each at most once (R86, log
11). At the listener it has no effect unless that is ARMED and admits the polarity; else the listener becomes IDLE and
an owner in AWAITING is handed EDGE with the time, an owner in another state nothing that has an effect (R103, R26).
An EDGE that reaches its engine in AWAITING becomes the anchor and fetch goes on; in any other state it has no effect
(R26). An outcome taken ahead of a directive of the tick has no more to do at the end of the tick. That an outcome
reaches the engine at the end of its tick, where the status write is formed, and that one command with both consumers
grants once after both, are the model's readings (log 6, log 7, log 30). -/
def Obligations.EdgeAtListener : Prop :=
  ∀ (s : State) (p : ProbeId), s.counting = true →
    exec (.probeEdge p .windowOnly) s = .next (servePort (handWindowEdge p s)) ∧
    exec (.probeEdge p .listenerOnly) s = .next (servePort (handListenerEdge p s)) ∧
    exec (.probeEdge p .windowThenListener) s = .next (servePort (handListenerEdge p (handWindowEdge p s))) ∧
    exec (.probeEdge p .listenerThenWindow) s = .next (servePort (handWindowEdge p (handListenerEdge p s))) ∧
    ((s.probes.detectors.get p).windowEdge = none → handWindowEdge p s = s) ∧
    ((s.probes.detectors.get p).listenerEdge = none → handListenerEdge p s = s) ∧
    (∀ pol, (s.probes.detectors.get p).listenerEdge = some pol →
      let k := s.probes.listeners.get p
      let u : State := { s with probes := { s.probes with
        detectors := s.probes.detectors.put p { s.probes.detectors.get p with listenerEdge := none } } }
      let v : State := withListener p { k with armed := false, owner := none, timeout := none } u
      (k.armed = false ∨ k.edge.admits pol = false → handListenerEdge p s = u) ∧
      (k.armed = true → k.edge.admits pol = true → ∀ t, k.owner = some t →
        ((s.tracks.get t).state = .awaiting →
          handListenerEdge p s = withTrack t { s.tracks.get t with outcome := some (.edge s.timebase.count) } v) ∧
        ((s.tracks.get t).state ≠ .awaiting → handListenerEdge p s = v))) ∧
    (∀ t, (s.tracks.get t).outcome = none → takeOutcome t s = s) ∧
    (∀ t o, (s.tracks.get t).outcome = some o → (s.tracks.get t).state ≠ .awaiting →
      takeOutcome t s = withTrack t { s.tracks.get t with outcome := none } s) ∧
    (∀ t e, (s.tracks.get t).outcome = some (.edge e) → (s.tracks.get t).state = .awaiting →
      takeOutcome t s = formStatus t (resumeFetch t
        (withTrack t { s.tracks.get t with state := .active, anchor := e, outcome := none } s))) ∧
    (∀ t a, (s.tracks.get t).outcome = some (.taken a) →
      takeOutcome t s = withTrack t { s.tracks.get t with outcome := none } s)

/-- TIMEOUT_EXPIRY: an ARMED listener whose timeout the count has reached becomes IDLE (R104). Under SKIP an owner in
AWAITING is handed TIMEOUT_SKIP. Under FAULT AWAIT_TIMEOUT is raised with the timeout as the owner's anchor at its
class action; a halted owner keeps that anchor, any other is handed TIMEOUT_FAULT with the timeout (R104, R26). A
TIMEOUT_FAULT that reaches its engine in AWAITING becomes the anchor and fetch goes on; at a TIMEOUT_SKIP the rest of
the segment is abandoned and its link word read (R26, R27). An owner in another state takes no outcome, and otherwise
nothing happens. That an outcome reaches the engine at the end of its tick, the order of the fault, the retirement,
the next read and the status write, and that an expiry not owed is no event, are the model's (log 3, log 7, log 8, log
20, log 30). -/
def Obligations.TimeoutExpires : Prop :=
  ∀ (s : State) (p : ProbeId), s.counting = true →
    let k := s.probes.listeners.get p
    let v : State := withListener p { k with armed := false, owner := none, timeout := none } s
    (∀ t i, k.armed = true → k.timeout = some i → i ≤ s.timebase.count → k.owner = some t →
      (s.tracks.get t).state = .awaiting →
      (k.policy = .fault →
        let r := raiseFault .awaitTimeout
          ⟨some t, 0, some p, k.origin.segment, some k.origin.index, k.origin.pass, i⟩
          (withTrack t { s.tracks.get t with anchor := i, outcome := none } v)
        exec (.timeoutExpiry p) s = .next (servePort
          (if (r.tracks.get t).state = .awaiting then
            withTrack t
              { r.tracks.get t with anchor := (s.tracks.get t).anchor, outcome := some (.timeoutFault i) } r
          else r))) ∧
      (k.policy = .skip →
        exec (.timeoutExpiry p) s =
          .next (servePort (withTrack t { s.tracks.get t with outcome := some .timeoutSkip } v)))) ∧
    (∀ t i, (s.tracks.get t).outcome = some (.timeoutFault i) → (s.tracks.get t).state = .awaiting →
      takeOutcome t s = formStatus t (resumeFetch t
        (withTrack t { s.tracks.get t with state := .active, anchor := i, outcome := none } s))) ∧
    (∀ t, (s.tracks.get t).outcome = some .timeoutSkip → (s.tracks.get t).state = .awaiting →
      takeOutcome t s = formStatus t (requestLink t false
        (retireIfDone t (s.tracks.get t).segment (withTrack t
          { s.tracks.get t with
            state := .active, outcome := none
            openList := (s.tracks.get t).openList.map fun r =>
              if r.address = (s.tracks.get t).segment then { r with skipped := true, fullyFetched := true } else r }
          s)))) ∧
    (∀ t i, k.armed = true → k.timeout = some i → i ≤ s.timebase.count → k.owner = some t →
      (s.tracks.get t).state ≠ .awaiting →
      (k.policy = .fault →
        exec (.timeoutExpiry p) s = .next (servePort (raiseFault .awaitTimeout
          ⟨some t, 0, some p, k.origin.segment, some k.origin.index, k.origin.pass, i⟩ v))) ∧
      (k.policy = .skip → exec (.timeoutExpiry p) s = .next (servePort v))) ∧
    (k.armed = false ∨ k.timeout = none ∨ (∃ i, k.timeout = some i ∧ s.timebase.count < i) →
      exec (.timeoutExpiry p) s = .next (servePort s))

/-! ## The Due Queue -/

/-- DISPATCH_EVENT: with no entry due nothing happens; the entry at the head, if it is due, leaves the queue and is
handed over, and its notice follows unless a halt gave it; then the same is done with the queue as it stands, until no
entry at its head is due (R53, R54, R55). After the hand-off NOTIFY raises MARK attention for every kind but MARK and
OPEN (R59). The entry in hand is the model's item (log 29), and a dispatch not owed is no event (log 3). -/
def Obligations.DispatchTakesHead : Prop :=
  (∀ e : Entry, e.handOff =
    { track := e.track, action := e.action, lanes := e.lanes, segment := e.segment, index := e.index, pass := e.pass
      notify := e.notify }) ∧
  (∀ (h : HandOff) (v : State),
    (h.notify = true → (∀ tag, h.action ≠ .mark tag) → (∀ p e b cap lim span q, h.action ≠ .openWindow p e b cap lim span q) →
      notifyEffect h v = withCause .mark v) ∧
    (h.notify = false ∨ (∃ tag, h.action = .mark tag) ∨ (∃ p e b cap lim span q, h.action = .openWindow p e b cap lim span q) →
      notifyEffect h v = v)) ∧
  (∀ (s : State) (e : Entry) (es : List Entry), s.queue.entries = e :: es → e.due ≤ s.timebase.count →
    let u := notifyEffect e.handOff
      (handAction e.handOff { s with queue := { s.queue with entries := es, inHand := some e } })
    let v := if u.queue.inHand = none then u
      else dispatchNotice e.track e.segment { u with queue := { u.queue with inHand := none } }
    dispatchEvent s = dispatchEvent v) ∧
  (∀ s : State, (∀ e, s.queue.entries.head? = some e → s.timebase.count < e.due) → dispatchEvent s = s) ∧
  ∀ s : State, s.counting = true →
    exec .dispatchEvent s = .next (servePort (dispatchEvent s)) ∧
    ((∀ e, s.queue.entries.head? = some e → s.timebase.count < e.due) →
      exec .dispatchEvent s = .next (servePort s)) ∧
    (∀ e es, s.queue.entries = e :: es → e.due ≤ s.timebase.count → (∀ x ∈ es, s.timebase.count < x.due) →
      let u := notifyEffect e.handOff
        (handAction e.handOff { s with queue := { s.queue with entries := es, inHand := some e } })
      (u.queue.inHand ≠ none →
        exec .dispatchEvent s = .next (servePort
          (dispatchNotice e.track e.segment { u with queue := { u.queue with inHand := none } }))) ∧
      (u.queue.inHand = none → exec .dispatchEvent s = .next (servePort u)))

/-- After a dispatch event no entry is due, and no entry has entered the queue (R53, R46). -/
def Obligations.DispatchLeavesNothingDue : Prop :=
  ∀ s : State, s.counting = true → QueueInv s →
    ∃ t, exec .dispatchEvent s = .next t ∧ ∀ e ∈ t.queue.entries, e ∈ s.queue.entries ∧ s.timebase.count < e.due

/-- A dispatch notice: the counts; the segment's retirement when nothing is outstanding; the read that a quota stall held
back; the end of the drain at the last one of a CLOSING track (R33, R37). The second and third clauses give the whole effect
where nothing further follows and where a stall ends. -/
def Obligations.DispatchNoticeCounts : Prop :=
  ∀ (s : State) (t : TrackId) (a : Address),
    let k := s.tracks.get t
    let c : Track := { k with
      queued := k.queued - 1
      dispatchedTotal := k.dispatchedTotal + 1
      openList := k.openList.map fun r =>
        if r.address = a then
          { r with outstanding := r.outstanding - 1, dispatched := succ32Sat r.dispatched }
        else r }
    (k.stallQuota = false →
      (k.state ≠ .closing ∨ 1 < k.queued → dispatchNotice t a s = retireIfDone t a (withTrack t c s)) ∧
      (k.state = .closing → k.queued ≤ 1 →
        dispatchNotice t a s = endDrain t (retireIfDone t a (withTrack t c s)))) ∧
    (k.state = .active → k.fetch.isSome = true → k.stallQuota = true → k.stallSegments = false → k.stallPort = false →
      k.queued - 1 < k.quota →
      dispatchNotice t a s = retireIfDone t a
        (withRequest t (.action k.segment k.cursor k.pass k.readGeneration)
          (withTrack t { c with stallQuota := false, stallPort := true } s)))

/-- Taking an insertion request, its target resolved to lanes at this event, a gang by its lane set then (R47): late
under RUN_LATE it is counted, handed over and LATE raised; late under DROP_LATE it is dropped and LATE raised; a
driving action that meets a same-time driving entry on a lane is dropped with LANE_COLLISION; any other enters after
the entries due no later, with the next insertion sequence, and an AWAIT makes its track AWAITING (R45 to R52, R24,
R25). Where the status write is formed, and that LATE follows all that a late hand-off does, are the model's readings
(log 7, log 8). -/
def Obligations.InsertionTaken : Prop :=
  (∀ a : Action, a.isAwait = true ↔ ∃ p e span pol, a = .await p e span pol) ∧
  (∀ (t : TrackId) (st : TrackState) (v : State), st ≠ .active → setTrackState t st v =
    withTrack t
      { v.tracks.get t with state := st, stallQuota := false, stallSegments := false, stallPort := false } v) ∧
  (∀ gs : Table 6 LaneSet,
    (∀ (l i : LaneId), laneIn (resolveTarget gs (.lane l)) i = decide (i = l)) ∧
    (∀ g, resolveTarget gs (.gang g) = gs.get g) ∧ (∀ S, resolveTarget gs (.lanes S) = S) ∧
    resolveTarget gs .none = 0) ∧
  (∀ a : Action, a.isDriving = true ↔ a = .set ∨ a = .clear ∨ a = .toggle ∨ ∃ d w, a = .pulse d w) ∧
  (∀ (a : Action) (p : ProbeId), a.probe = some p ↔
    (∃ e b cap lim span q, a = .openWindow p e b cap lim span q) ∨ a = .closeWindow p ∨
      ∃ e span pol, a = .await p e span pol) ∧
  ∀ (s : State) (r : Insertion),
    let k := s.tracks.get r.track
    let S := resolveTarget s.gangs r.target
    let h : HandOff := ⟨r.track, r.action, S, r.segment, r.index, r.pass, r.notify⟩
    let dropped : State := withTrack r.track
      { k with
        droppedTotal := k.droppedTotal + 1
        openList := k.openList.map fun x =>
          if x.address = r.segment then { x with dropped := succ32Sat x.dropped } else x } s
    let ran : State := withTrack r.track
      { k with
        dispatchedTotal := k.dispatchedTotal + 1
        openList := k.openList.map fun x =>
          if x.address = r.segment then { x with dispatched := succ32Sat x.dispatched } else x } s
    let late : FaultContext := ⟨some r.track, S, r.action.probe, r.segment, some r.index, r.pass, s.timebase.count⟩
    let meets := ∃ e ∈ s.queue.entries, e.action.isDriving = true ∧ e.due = r.due ∧ e.lanes &&& S ≠ 0
    (r.due ≤ s.timebase.count → r.policy = .runLate → r.action.isAwait = false →
      insertAction r s = raiseFault .late late (notifyEffect h (handAction h ran))) ∧
    (r.due ≤ s.timebase.count → r.policy = .runLate → r.action.isAwait = true →
      insertAction r s = raiseFault .late late
        (notifyEffect h (handAction h (formStatus r.track (setTrackState r.track .awaiting ran))))) ∧
    (r.due ≤ s.timebase.count → r.policy = .dropLate → insertAction r s = raiseFault .late late dropped) ∧
    (s.timebase.count < r.due → r.action.isDriving = true → meets →
      ∃ C : LaneSet,
        (∀ l, laneIn C l = true ↔
          ∃ e ∈ s.queue.entries, e.action.isDriving = true ∧ e.due = r.due ∧ laneIn e.lanes l = true ∧ laneIn S l = true) ∧
        insertAction r s = raiseFault .laneCollision
          ⟨some r.track, C, none, r.segment, some r.index, r.pass, s.timebase.count⟩ dropped) ∧
    (s.timebase.count < r.due → r.action.isDriving = false ∨ ¬meets → QueueInv s →
      let e : Entry := ⟨r.track, r.action, r.due, s.queue.insertion, S,
        match r.target with
        | .gang g => some g
        | _ => none, r.segment, r.pass, r.index, r.notify⟩
      let queued : State := withTrack r.track
        { k with
          queued := k.queued + 1
          openList := k.openList.map fun x =>
            if x.address = r.segment then { x with outstanding := x.outstanding + 1 } else x }
        { s with queue := { s.queue with
            entries := s.queue.entries.filter (fun x => decide (x.due ≤ r.due)) ++
              e :: s.queue.entries.filter (fun x => decide (r.due < x.due))
            insertion := add64 s.queue.insertion 1 } }
      (r.action.isAwait = false → insertAction r s = queued) ∧
      (r.action.isAwait = true → insertAction r s = formStatus r.track (setTrackState r.track .awaiting queued)))

/-! ## Faults -/

/-- Taking a fault: a masked kind is only counted, one that takes no slot as well; an unmasked one joins the fault
word, takes the next number, is latched as the first fault when the word was empty, has its class action taken, and is
given the lowest FREE slot or counted lost; INCIDENT attention is raised; a fault that takes no slot is counted lost
(R110, R113 to R116, R123, R124, R125). -/
def Obligations.FaultTaken : Prop :=
  ∀ (s : State) (kind : FaultKind) (c : FaultContext),
    let e := s.faults.policy.get kind.code
    let cls := resolveClass e.cls c s
    let q := add64 s.faults.sequence 1
    let u := classAction cls kind c
      { s with faults := { s.faults with
          word := s.faults.word ||| kind.bit
          sequence := q
          first := if s.faults.word = 0 then ⟨true, kind, cls, q, c⟩ else s.faults.first } }
    (e.masked = true →
      raiseFault kind c s = { s with faults := { s.faults with masked := s.faults.masked + 1 } } ∧
      takeFault kind c true s = { s with faults := { s.faults with masked := s.faults.masked + 1 } }) ∧
    (e.masked = false →
      (∀ n, u.faults.slots.get n = .free → (∀ m, m < n → u.faults.slots.get m ≠ .free) →
        raiseFault kind c s = withCause .incident
          { u with
            faults := { u.faults with slots := u.faults.slots.put n .writing }
            port := { u.port with
              incidents := u.port.incidents ++ [⟨n, ⟨q.extractLsb' 0 32, kind, cls, c⟩⟩] } }) ∧
      ((∀ n, u.faults.slots.get n ≠ .free) →
        raiseFault kind c s =
          withCause .incident { u with faults := { u.faults with lost := add64 u.faults.lost 1 } }) ∧
      takeFault kind c true s =
        withCause .incident { u with faults := { u.faults with lost := add64 u.faults.lost 1 } }) ∧
    (∀ k : FaultKind, faultWordHas (s.faults.word ||| kind.bit) k = (faultWordHas s.faults.word k || decide (k = kind)))

/-- The class applied, case by case (R117). -/
def Obligations.ClassResolved : Prop :=
  ∀ (c : FaultContext) (s : State),
    resolveClass .note c s = .note ∧
    (c.track ≠ none → resolveClass .track c s = .track) ∧
    (c.track = none → resolveClass .track c s = .note) ∧
    (c.lanes = 0 ∨ (∀ g, s.gangs.get g &&& c.lanes = 0) → resolveClass .gang c s = resolveClass .track c s) ∧
    (∀ g, s.gangs.get g &&& c.lanes ≠ 0 → resolveClass .gang c s = .gang) ∧
    (s.control.device = .running → resolveClass .device c s = .device) ∧
    (s.control.device ≠ .running → resolveClass .device c s = .note)

/-- A halt request: no effect in OFF and HALTED; else the track is stripped, its entries purged and its segments cut,
it is HALTED with the kind, and TRACK_HALT attention is raised (R39). An abort strips it in the same way and leaves it
OFF (R38, R40). The entries purged count as dropped in the CUT records, and the entry in hand as dispatched (R33, R34,
R35, R55). Its OPEN windows close, with the summaries of those with no record pending requested, and the other
requests that wait, the capture queue and the access in flight are kept (R94, R95, R107, R148). Any read in flight is
marked for discard, and the stall flags and the pending link are cleared; every other item of the track stays, its
segment address, cursor, pass, anchor, quota and rejected link among them (R38, R39, R41, R42, R44), but that the
anchor is as it was before an await that resolved at this tick and was taken ahead of a directive (R106, R160). Its
status write is formed with these items (R143), every cause that was set stays set, and no cause but TRACK_HALT and
RETIRED is raised (R177). An edge or timeout of this tick that has been handed over and has not reached the engine
finds it outside AWAITING and has no effect (R106, R26). A drain in progress on the track is answered ENDED_BY_HALT or
ENDED_BY_ABORT (R157). Where the entry in hand stands, the order of those summaries, that a halt and not the notice of
that entry ends a drain, when an outcome reaches its engine, and that the status write stands in class 5 before that
answer, are the model's (log 10, log 29, log 30, log 32, log 36). -/
def Obligations.TrackEnds : Prop :=
  (∀ st : TrackState, st.alive = true ↔ st ≠ .off ∧ st ≠ .halted) ∧
  ∀ (s : State) (t : TrackId) (kind : FaultKind) (cause : CloseCause) (d : Word32),
    ((s.tracks.get t).state.alive = false → haltTrack t kind s = s) ∧
    ((s.tracks.get t).state.alive = true →
      let u := haltTrack t kind s
      u.tracks.get t = { trackEnded t s with state := .halted, haltKind := some kind } ∧ StatusFormed t u ∧
      Stripped t .trackHalt s u ∧ PurgedAndCut t s u ∧
      u.attends .trackHalt = true ∧ RaisesOnly [.retired, .trackHalt] s u ∧
      u.control = { s.control with attention := u.control.attention } ∧
      u.faults = s.faults ∧ u.timebase = s.timebase ∧ u.gangs = s.gangs ∧ u.memory = s.memory ∧
      ∀ q, s.directives.drain = some ⟨q, t⟩ → u.directives.drain = none ∧
        u.port.out.getLast? = some (.result ⟨q, .endedByHalt, BitVec.ofNat 32 kind.code.val, s.timebase.count⟩)) ∧
    (let u := abortTrack t cause d s;
      u.tracks.get t = { trackEnded t s with state := .off } ∧ StatusFormed t u ∧
      Stripped t cause s u ∧ PurgedAndCut t s u ∧
      RaisesOnly [.retired] s u ∧ u.control = { s.control with attention := u.control.attention } ∧
      u.faults = s.faults ∧ u.timebase = s.timebase ∧ u.gangs = s.gangs ∧ u.memory = s.memory ∧
      ∀ q, s.directives.drain = some ⟨q, t⟩ → u.directives.drain = none ∧
        u.port.out.getLast? = some (.result ⟨q, .endedByAbort, d, s.timebase.count⟩))

/-- The class actions: none under NOTE; a halt of the context's track under TRACK; under GANG a halt of that track and
of every owner of a lane of a gang that meets the context (R118, R119), and nothing of any other track; under DEVICE
every window closed with DEVICE_HALT, every listener disarmed, every track halted, the device HALTED with the count,
ANCHOR and RUN_REFUSED unchanged, DEVICE_HALT attention and a summary write of what then stands (R108, R120, R142,
R176). Each track halted is HALTED with the kind, its entries purged and its segments cut with their counts, its OPEN
windows closed with TRACK_HALT under GANG, its listeners disarmed, an edge or timeout of this tick that has not
reached the engine without effect, the anchor as it was before an await that resolved at this tick and was taken
ahead of a directive, any read in flight marked for discard, its other items kept, its status write formed, its lanes
freed, TRACK_HALT attention raised, and a drain of it ENDED_BY_HALT (R33, R34, R35, R39, R60, R42, R83, R106, R107,
R143, R157); every cause that was set stays set, and the enables (R177). Under GANG and DEVICE the summaries of the
closed windows with no record pending are requested, and the other requests that wait, the capture queue and the
access in flight are kept (R94, R95, R148). Where the entry in hand stands, the order of those summaries, that the
halt ends the drain, and when an outcome reaches its engine, are the model's (log 10, log 29, log 30, log 32). -/
def Obligations.ClassActions : Prop :=
  ∀ (s : State) (kind : FaultKind) (c : FaultContext),
    classAction .note kind c s = s ∧
    (∀ t, c.track = some t → classAction .track kind c s = haltTrack t kind s) ∧
    (let hit := fun t : TrackId => c.track = some t ∨
        ∃ g l, s.gangs.get g &&& c.lanes ≠ 0 ∧ laneIn (s.gangs.get g) l = true ∧ (s.lanes.get l).owner = some t;
      let u := classAction .gang kind c s;
      (∀ t, hit t → (s.tracks.get t).state.alive = true →
        u.tracks.get t = { trackEnded t s with state := .halted, haltKind := some kind } ∧
        StatusFormed t u) ∧
      (∀ t, ¬hit t ∨ (s.tracks.get t).state.alive = false →
        u.tracks.get t = s.tracks.get t ∧ u.port.tracks.get t = s.port.tracks.get t ∧
        ∀ q, s.directives.drain = some ⟨q, t⟩ → u.directives = s.directives) ∧
      (∀ l t, (s.lanes.get l).owner = some t → hit t → (s.tracks.get t).state.alive = true →
        u.lanes.get l = { s.lanes.get l with owner := none, level := (s.lanes.get l).safe, returnEdge := none }) ∧
      (∀ l, (∀ t, (s.lanes.get l).owner = some t → ¬hit t ∨ (s.tracks.get t).state.alive = false) →
        u.lanes.get l = s.lanes.get l) ∧
      (∃ gone : TrackId → Bool, (∀ t, gone t = true ↔ hit t ∧ (s.tracks.get t).state.alive = true) ∧
        u.queue.entries = (s.queue.entries.filter fun e => !gone e.track) ∧
        u.port.summaries = s.port.summaries ++
          (allTracks.filter gone).flatMap fun t => closingSummaries (ownedBy t) .trackHalt s) ∧
      QueuesKept s u ∧
      (∀ p t, (s.probes.windows.get p).owner = some t → hit t → (s.tracks.get t).state.alive = true →
        (s.probes.windows.get p).state = .isOpen → u.probes.windows.get p =
          { s.probes.windows.get p with state := .closing, cause := some .trackHalt, closeTime := s.timebase.count }) ∧
      (∀ p, (s.probes.windows.get p).state ≠ .isOpen ∨
          (∀ t, (s.probes.windows.get p).owner = some t → ¬hit t ∨ (s.tracks.get t).state.alive = false) →
        u.probes.windows.get p = s.probes.windows.get p) ∧
      (∀ p t, (s.probes.listeners.get p).armed = true → (s.probes.listeners.get p).owner = some t → hit t →
        (s.tracks.get t).state.alive = true →
        u.probes.listeners.get p = { s.probes.listeners.get p with armed := false, owner := none, timeout := none }) ∧
      (∀ p, (s.probes.listeners.get p).armed = false ∨
          (∀ t, (s.probes.listeners.get p).owner = some t → ¬hit t ∨ (s.tracks.get t).state.alive = false) →
        u.probes.listeners.get p = s.probes.listeners.get p) ∧
      (∀ t, hit t → (s.tracks.get t).state.alive = true → u.attends .trackHalt = true) ∧
      (∀ q t, s.directives.drain = some ⟨q, t⟩ → hit t → (s.tracks.get t).state.alive = true →
        u.directives.drain = none ∧
        .result ⟨q, .endedByHalt, BitVec.ofNat 32 kind.code.val, s.timebase.count⟩ ∈ u.port.out) ∧
      u.control = { s.control with attention := u.control.attention } ∧ RaisesOnly [.retired, .trackHalt] s u ∧
      u.timebase = s.timebase ∧
      u.faults = s.faults ∧ u.gangs = s.gangs ∧ u.memory = s.memory ∧
      (∀ t, hit t → (s.tracks.get t).state.alive = true → PurgedAndCut t s u)) ∧
    (let u := classAction .device kind c s;
      u.control = { s.control with device := .halted, attention := u.control.attention } ∧
      RaisesOnly [.retired, .trackHalt, .deviceHalt] s u ∧ u.timebase = s.timebase ∧ u.faults = s.faults ∧
      u.attends .deviceHalt = true ∧
      (∀ t, (s.tracks.get t).state.alive = true →
        u.tracks.get t = { trackEnded t s with state := .halted, haltKind := some kind } ∧
        u.attends .trackHalt = true ∧ StatusFormed t u) ∧
      (∀ t, (s.tracks.get t).state.alive = false →
        u.tracks.get t = s.tracks.get t ∧ u.port.tracks.get t = s.port.tracks.get t) ∧
      u.port.summaries = s.port.summaries ++ closingSummaries (fun _ => true) .deviceHalt s ∧ QueuesKept s u ∧
      (∀ p, (s.probes.windows.get p).state = .isOpen → u.probes.windows.get p =
        { s.probes.windows.get p with state := .closing, cause := some .deviceHalt, closeTime := s.timebase.count }) ∧
      (∀ p, (s.probes.windows.get p).state ≠ .isOpen → u.probes.windows.get p = s.probes.windows.get p) ∧
      (∀ p, (u.probes.listeners.get p).armed = false) ∧
      u.queue.entries = s.queue.entries.filter (fun e => !(s.tracks.get e.track).state.alive) ∧
      (∀ l t, (s.lanes.get l).owner = some t → (s.tracks.get t).state.alive = true →
        u.lanes.get l = { s.lanes.get l with owner := none, level := (s.lanes.get l).safe, returnEdge := none }) ∧
      (∀ l, (∀ t, (s.lanes.get l).owner = some t → (s.tracks.get t).state.alive = false) →
        u.lanes.get l = s.lanes.get l) ∧
      u.gangs = s.gangs ∧ u.memory = s.memory ∧
      (∀ t, (s.tracks.get t).state.alive = true → PurgedAndCut t s u) ∧
      u.port.lastSummary = some (summaryImage u) ∧
      (∃ g, .summary g s.timebase.count (summaryImage u) ∈ u.port.out) ∧
      (∀ q t, s.directives.drain = some ⟨q, t⟩ → (s.tracks.get t).state.alive = true →
        u.directives.drain = none ∧
        .result ⟨q, .endedByHalt, BitVec.ofNat 32 kind.code.val, s.timebase.count⟩ ∈ u.port.out))

/-! ## Segments -/

/-- The checks of a header (R17), with the codes of the anchor modes and late policies (spec 10.2), and the fields of
its record (spec 10.4). -/
def Obligations.HeaderChecks : Prop :=
  (∀ (k : Track) (a : Address) (h : Header),
    headerValid k a h ≠ none ↔
      h.actionCount ≠ 0 ∧ h.anchorMode ≤ 2 ∧ h.latePolicy ≤ 1 ∧ (h.loop = false → h.repeatCount ≤ 4095) ∧
      (0 < h.repeatCount ∨ h.loop = true → 0 < h.period.toNat ∧ h.period.toNat ≤ 2 ^ 48 - 1) ∧
      (∀ r ∈ k.openList, r.address ≠ a)) ∧
  (∀ (k : Track) (a : Address) (h : Header) (m : AnchorMode) (p : LatePolicy), headerValid k a h = some (m, p) →
    h.anchorMode = (match m with
      | .keep => 0
      | .set => 1
      | .frame => 2) ∧
    h.latePolicy = (match p with
      | .runLate => 0
      | .dropLate => 1)) ∧
  ∀ b : BitVec 256, Header.ofRecord b =
    { link := b.extractLsb' 0 64, actionCount := (b.extractLsb' 64 8).toNat, anchorMode := (b.extractLsb' 72 8).toNat
      latePolicy := (b.extractLsb' 80 8).toNat, loop := b.getLsbD 88, notifyOnRetire := b.getLsbD 89
      repeatCount := (b.extractLsb' 96 16).toNat, anchorValue := b.extractLsb' 128 64, period := b.extractLsb' 192 64 }

/-- HEADER_READ_DONE with a valid header: the record, the fetch context, cursor and pass 0 and the anchor of the mode;
then the first action is read, or the quota stalls the track (R18, R21, R15). A read that is no longer awaited is
discarded (R42). -/
def Obligations.HeaderAccepted : Prop :=
  (∀ (k : Track) (a : Address) (g : Word32), headerTaken k a g = true ↔
    k.state = .active ∧ k.segment = a ∧ k.fetch = none ∧ k.readGeneration = g) ∧
  ∀ (s : State) (t : TrackId) (a x : Address) (p g : Word32) (b : BitVec 256),
    InFlightIs s (.track t (.header a p g)) x →
    let k := s.tracks.get t
    let h := Header.ofRecord b
    (headerTaken k a g = false → exec (.headerReadDone (.data b)) s = .next (servePort (released s))) ∧
    (∀ m pol, headerTaken k a g = true → headerValid k a h = some (m, pol) →
      k.stallQuota = false → k.stallSegments = false →
      let e : Track := { k with
        stallPort := false
        openList := k.openList ++ [⟨a, h.notifyOnRetire, 0, 0, 0, 0, false, false⟩]
        fetch := some ⟨h.actionCount, m, pol, h.repeatCount, h.loop, h.period⟩
        cursor := 0
        pass := 0
        anchor := match m with
          | .keep => k.anchor
          | .set => h.anchorValue
          | .frame => nextBoundary s.timebase.frame s.timebase.count }
      (k.queued < k.quota →
        exec (.headerReadDone (.data b)) s = .next (servePort (withRequest t (.action a 0 0 g)
          (withTrack t { e with stallPort := true } (released s))))) ∧
      (k.quota ≤ k.queued →
        exec (.headerReadDone (.data b)) s =
          .next (servePort (withTrack t { e with stallQuota := true } (released s)))))

/-- HEADER_READ_DONE with an invalid header or an error: a head makes the track OFF, any other header parks it on its
predecessor with the rejected link; REJECTED is written unless the refusal is for re-entry or a failed read; then
BAD_SEGMENT or BUS_READ is raised (R19, R20, R145). That re-entry outweighs another failed check, and where the status
write is formed, are the model's readings (log 7, log 25). -/
def Obligations.HeaderRefused : Prop :=
  ∀ (s : State) (t : TrackId) (a x : Address) (p g : Word32),
    InFlightIs s (.track t (.header a p g)) x →
    let k := s.tracks.get t
    headerTaken k a g = true →
    let c : FaultContext := ⟨some t, 0, none, a, none, p, s.timebase.count⟩
    let e : Track :=
      if k.linkSource = 0 then
        { k with stallPort := false, stallQuota := false, stallSegments := false, state := .off, segment := 0 }
      else
        { k with
          stallPort := false, stallQuota := false, stallSegments := false, state := .parked
          segment := k.linkSource, rejectedLink := some a }
    let u := withTrack t e (released s)
    (∀ b, headerValid k a (Header.ofRecord b) = none → (∀ r ∈ k.openList, r.address ≠ a) →
      exec (.headerReadDone (.data b)) s = .next (servePort (raiseFault .badSegment c
        (formStatus t (withRequest t (.retire a ⟨.rejected, 0, 0, 0, s.timebase.count⟩) u))))) ∧
    (∀ b, (∃ r ∈ k.openList, r.address = a) →
      exec (.headerReadDone (.data b)) s = .next (servePort (raiseFault .badSegment c (formStatus t u)))) ∧
    exec (.headerReadDone .error) s = .next (servePort (raiseFault .busRead c (formStatus t u)))

/-- The due time of an action: anchor plus time, or time plus pass number times period, without loss; none when it
exceeds 2^64−1 (R23, R22). The fields of an action record and the operand checks of each kind, with the codes of its
operands (R22, spec 10.2, spec 10.4), the insertion request of a record that passes them (R24), and the lanes and the
probe in the context of one that does not (R22). -/
def Obligations.DueTimeOfAction : Prop :=
  (∀ (time : Word64) (anchor : Instant) (pass : Word32) (period : Word64),
    (∀ d : Instant, dueTime .rel time anchor pass period = some d ↔ d.toNat = anchor.toNat + time.toNat) ∧
    (∀ d : Instant, dueTime .abs time anchor pass period = some d ↔
      d.toNat = time.toNat + pass.toNat * period.toNat) ∧
    (dueTime .rel time anchor pass period = none ↔ 2 ^ 64 ≤ anchor.toNat + time.toNat) ∧
    (dueTime .abs time anchor pass period = none ↔ 2 ^ 64 ≤ time.toNat + pass.toNat * period.toNat)) ∧
  ∀ b : BitVec 256,
    let kind := (b.extractLsb' 0 8).toNat
    let mode := (b.extractLsb' 8 2).toNat
    let notify := b.getLsbD 10
    let isGang := b.getLsbD 11
    let index := (b.extractLsb' 16 8).toNat
    let second := (b.extractLsb' 24 8).toNat
    let lanes : LaneSet := b.extractLsb' 16 16
    let edgeCode : EdgeKind → Nat := fun e => match e with
      | .rise => 1
      | .fall => 2
      | .both => 3
    let time : Word64 := b.extractLsb' 64 64
    let aims := fun g : Target =>
      (isGang = false ∧ ∃ l : LaneId, index = l.val ∧ g = .lane l) ∨ (isGang = true ∧ ∃ n : GangId, index = n.val ∧ g = .gang n)
    (∀ a g, parseAction b = some (a, g) ↔
      (kind = 1 ∧ a = .set ∧ aims g) ∨ (kind = 2 ∧ a = .clear ∧ aims g) ∨ (kind = 3 ∧ a = .toggle ∧ aims g) ∨
      (kind = 4 ∧ aims g ∧ ∃ p : Drive,
        second = (match p with
          | .low => 0
          | .high => 1) ∧ b.extractLsb' 128 32 ≠ 0 ∧
        a = .pulse p (b.extractLsb' 128 32)) ∨
      (kind = 5 ∧ a = .claim ∧ g = .lanes lanes) ∨ (kind = 6 ∧ a = .release ∧ g = .lanes lanes) ∨
      (kind = 7 ∧ g = .none ∧ ∃ (p : ProbeId) (e : EdgeKind),
        index = p.val ∧ second = edgeCode e ∧ (b.extractLsb' 128 64).toNat % 64 = 0 ∧ b.extractLsb' 128 64 ≠ 0 ∧
        b.extractLsb' 48 16 ≠ 0 ∧ (b.extractLsb' 208 48).toNat ≤ 2 ^ 40 - 1 ∧
        a = .openWindow p e (b.extractLsb' 128 64) (b.extractLsb' 48 16).toNat (b.extractLsb' 192 16).toNat
          (b.extractLsb' 208 48).toNat (b.extractLsb' 32 16).toNat) ∨
      (kind = 8 ∧ g = .none ∧ ∃ p : ProbeId, index = p.val ∧ a = .closeWindow p) ∨
      (kind = 9 ∧ g = .none ∧ ∃ (p : ProbeId) (e : EdgeKind) (pol : TimeoutPolicy),
        index = p.val ∧ second = edgeCode e ∧
        (b.extractLsb' 32 8).toNat = (match pol with
          | .skip => 0
          | .fault => 1) ∧
        (b.extractLsb' 128 64).toNat ≤ 2 ^ 40 - 1 ∧ a = .await p e (b.extractLsb' 128 64).toNat pol) ∨
      (kind = 10 ∧ g = .none ∧ a = .mark (b.extractLsb' 128 32))) ∧
    (∀ (t : TrackId) (k : Track) (f : FetchContext) (i : Nat) (r : Insertion),
      insertionOf t k f i b = some r ↔
        ∃ (a : Action) (g : Target) (d : Instant), parseAction b = some (a, g) ∧
          (mode = 0 ∧ d.toNat = time.toNat + k.pass.toNat * f.period.toNat ∨
            mode = 1 ∧ d.toNat = k.anchor.toNat + time.toNat) ∧
          r = ⟨t, a, d, g, notify, f.latePolicy, k.segment, k.pass, i⟩) ∧
    (∀ l, laneIn (badActionLanes b) l = true ↔
      (kind = 5 ∨ kind = 6) ∧ laneIn lanes l = true ∨ (1 ≤ kind ∧ kind ≤ 4) ∧ isGang = false ∧ index = l.val) ∧
    (∀ p, badActionProbe b = some p ↔ (kind = 7 ∨ kind = 8 ∨ kind = 9) ∧ index = p.val)

/-- ACTION_READ_DONE: the cursor advances; a valid action goes to the queue; an invalid one or a failed read is
counted dropped and raises BAD_ACTION or BUS_READ; then fetch goes on, unless an AWAIT was taken (R21, R22, R24, R25,
R146). A read that is no longer awaited is discarded (R42). The order of the fault and the next read is the model's
reading (log 8). -/
def Obligations.ActionRead : Prop :=
  (∀ (k : Track) (a : Address) (g : Word32), segmentTaken k a g = true ↔
    k.state = .active ∧ k.segment = a ∧ k.fetch ≠ none ∧ k.readGeneration = g) ∧
  (∀ (r : Insertion) (v : State), willDrop r v = true ↔
    (r.due ≤ v.timebase.count ∧ r.policy = .dropLate) ∨
      (v.timebase.count < r.due ∧ r.action.isDriving = true ∧
        ∃ e ∈ v.queue.entries, e.action.isDriving = true ∧ e.due = r.due ∧
          e.lanes &&& resolveTarget v.gangs r.target ≠ 0)) ∧
  ∀ (s : State) (t : TrackId) (a x : Address) (i : Nat) (p g : Word32),
    InFlightIs s (.track t (.action a i p g)) x →
    let k := s.tracks.get t
    let e : Track := { k with stallPort := false, cursor := i + 1 }
    let u := withTrack t e (released s)
    let dropped := withTrack t
      { e with
        droppedTotal := k.droppedTotal + 1
        openList := k.openList.map fun r => if r.address = a then { r with dropped := succ32Sat r.dropped } else r }
      (released s)
    (∀ b, segmentTaken k a g = false → exec (.actionReadDone (.data b)) s = .next (servePort (released s))) ∧
    (∀ b f, segmentTaken k a g = true → k.fetch = some f → insertionOf t e f i b = none →
      exec (.actionReadDone (.data b)) s = .next (servePort (resumeFetch t (raiseFault .badAction
        ⟨some t, badActionLanes b, badActionProbe b, a, some i, p, s.timebase.count⟩ dropped)))) ∧
    (∀ b f r, segmentTaken k a g = true → k.fetch = some f → insertionOf t e f i b = some r →
      (r.action.isAwait = true ∧ willDrop r u = false →
        exec (.actionReadDone (.data b)) s = .next (servePort (insertAction r u))) ∧
      (r.action.isAwait = false ∨ willDrop r u = true →
        exec (.actionReadDone (.data b)) s = .next (servePort (resumeFetch t (insertAction r u))))) ∧
    (segmentTaken k a g = true →
      exec (.actionReadDone .error) s = .next (servePort (resumeFetch t (raiseFault .busRead
        ⟨some t, 0, none, a, some i, p, s.timebase.count⟩ dropped))))

/-- Fetch going on in ACTIVE without a stall: the next action is read within the quota, or STALL_QUOTA is set; at the
end of the pass another pass starts, or the link word is read (R15, R21, R28); in any other state nothing happens
(R26). The anchor of a further pass holds 2^64−1 where the sum would exceed it (R28), and a record's counts saturate
at 2^32−1 (R24). -/
def Obligations.FetchGoesOn : Prop :=
  (∀ k : Track, k.unstalled = true ↔ k.stallQuota = false ∧ k.stallSegments = false ∧ k.stallPort = false) ∧
  (∀ (a : Word64) (n : Nat),
    (a.toNat + n < 2 ^ 64 → (add64Held a n).toNat = a.toNat + n) ∧
    (2 ^ 64 ≤ a.toNat + n → (add64Held a n).toNat = 2 ^ 64 - 1)) ∧
  (∀ c : Word32,
    (c.toNat < 2 ^ 32 - 1 → (succ32Sat c).toNat = c.toNat + 1) ∧ (c.toNat = 2 ^ 32 - 1 → succ32Sat c = c)) ∧
  ∀ (s : State) (t : TrackId) (f : FetchContext),
    let k := s.tracks.get t
    let n : Track := { k with
      openList := k.openList.map fun r =>
        if r.address = k.segment then { r with passes := succ32Sat r.passes } else r }
    (k.state ≠ .active ∨ k.unstalled = false → resumeFetch t s = s) ∧
    (k.fetch = some f → k.state = .active → k.stallQuota = false → k.stallSegments = false → k.stallPort = false →
      (k.cursor < f.actionCount → k.queued < k.quota →
        resumeFetch t s = withRequest t (.action k.segment k.cursor k.pass k.readGeneration)
          (withTrack t { k with stallPort := true } s)) ∧
      (k.cursor < f.actionCount → k.quota ≤ k.queued →
        resumeFetch t s = withTrack t { k with stallQuota := true } s) ∧
      (f.actionCount ≤ k.cursor → f.loop = false → k.pass.toNat < f.repeatCount → k.queued < k.quota →
        resumeFetch t s = withRequest t (.action k.segment 0 (k.pass + 1) k.readGeneration)
          (withTrack t
            { n with
              pass := k.pass + 1, anchor := add64Held k.anchor f.period.toNat, cursor := 0, stallPort := true } s)) ∧
      (f.actionCount ≤ k.cursor → f.loop = false → k.pass.toNat < f.repeatCount → k.quota ≤ k.queued →
        resumeFetch t s = withTrack t
          { n with
            pass := k.pass + 1, anchor := add64Held k.anchor f.period.toNat, cursor := 0, stallQuota := true } s) ∧
      (f.actionCount ≤ k.cursor → f.loop = false → f.repeatCount ≤ k.pass.toNat →
        resumeFetch t s = withRequest t (.link k.segment false k.pass k.readGeneration)
          (withTrack t { n with stallPort := true } s)) ∧
      (f.actionCount ≤ k.cursor → f.loop = true →
        resumeFetch t s = withRequest t (.link k.segment (decide (k.pass.toNat < 2 ^ 32 - 1)) k.pass k.readGeneration)
          (withTrack t { n with stallPort := true } s)))

/-- Entering a segment with room in the list, and without (R16); a record that is fully fetched with nothing
outstanding retires: it leaves the list, its retire write is requested, RETIRED attention is raised where asked for,
and a pending link gets its room (R34, R35, R16). -/
def Obligations.SegmentEntryAndRetirement : Prop :=
  ∀ (s : State) (t : TrackId) (a b : Address),
    let k := s.tracks.get t
    (k.openList.length < 4 →
      beginEntry t a b s = withRequest t (.header a k.pass k.readGeneration)
        (withTrack t { k with linkSource := b, segment := a, stallPort := true } s)) ∧
    (4 ≤ k.openList.length →
      beginEntry t a b s =
        withTrack t { k with linkSource := b, pendingLink := some a, stallSegments := true } s) ∧
    (∀ r, k.openList.find? (fun r => r.address == a) = some r →
      (r.fullyFetched = false ∨ r.outstanding ≠ 0 → retireIfDone t a s = s) ∧
      (r.fullyFetched = true → r.outstanding = 0 →
        let o : RetireOutcome :=
          if r.skipped = true then .skipped else if r.dropped = 0 then .done else .doneWithDrops
        let e : Track := { k with
          openList := k.openList.filter fun x => !(x.address == a) }
        let asked := withRequest t (.retire a ⟨o, r.passes, r.dispatched, r.dropped, s.timebase.count⟩) s
        let u := if r.notifyOnRetire = true ∨ k.retireNotifyAll = true then withCause .retired asked else asked
        (k.pendingLink = none → retireIfDone t a s = withTrack t e u) ∧
        (∀ y, k.pendingLink = some y →
          retireIfDone t a s = withRequest t (.header y k.pass k.readGeneration)
            (withTrack t
              { e with segment := y, pendingLink := none, stallSegments := false, stallPort := true } u))))

/-- LINK_WORD_READ_DONE: 0 after a pass of a LOOP_UNTIL_LINKED segment starts another pass; 0 otherwise parks the
track; a misaligned link parks it with the rejected link and raises BAD_SEGMENT; any other is entered; a failed read
counts as 0 and raises BUS_READ (R28, R29, R30, R146). A read that is no longer awaited is discarded (R42). Where the
status write is formed, and that BUS_READ is taken before the next pass asks for its action, are the model's readings
(log 7, log 8). -/
def Obligations.LinkWordRead : Prop :=
  ∀ (s : State) (t : TrackId) (a x : Address) (loop : Bool) (p g : Word32),
    InFlightIs s (.track t (.link a loop p g)) x →
    let k := s.tracks.get t
    let c : FaultContext := ⟨some t, 0, none, a, none, p, s.timebase.count⟩
    let u := retireIfDone t a (withTrack t
      { k with
        stallPort := false
        fetch := none
        openList := k.openList.map fun r => if r.address = a then { r with fullyFetched := true } else r }
      (released s))
    let parked := formStatus t (setTrackState t .parked u)
    (∀ v, segmentTaken k a g = false → exec (.linkWordReadDone (.data v)) s = .next (servePort (released s))) ∧
    (segmentTaken k a g = true →
      (∀ f, loop = true → k.fetch = some f →
        let again := resumeFetch t
        let n := withTrack t
          { k with
            stallPort := false, pass := k.pass + 1, anchor := add64Held k.anchor f.period.toNat, cursor := 0 }
          (released s)
        exec (.linkWordReadDone (.data 0)) s = .next (servePort (again n)) ∧
        exec (.linkWordReadDone .error) s = .next (servePort (again (raiseFault .busRead c n)))) ∧
      (loop = false →
        exec (.linkWordReadDone (.data 0)) s = .next (servePort parked) ∧
        exec (.linkWordReadDone .error) s = .next (servePort (raiseFault .busRead c parked))) ∧
      (∀ v : Address, v ≠ 0 → v.toNat % 64 = 0 →
        exec (.linkWordReadDone (.data v)) s = .next (servePort (beginEntry t v (u.tracks.get t).segment u))) ∧
      (∀ v : Address, v.toNat % 64 ≠ 0 →
        exec (.linkWordReadDone (.data v)) s = .next (servePort (raiseFault .badSegment
          ⟨some t, 0, none, v, none, (u.tracks.get t).pass, s.timebase.count⟩
          (formStatus t (setTrackState t .parked
            (withTrack t { u.tracks.get t with rejectedLink := some v } u)))))))

/-! ## Completions of the scan's reads and of the writes -/

/-- SCAN_LINK_READ_DONE: a track still PARKED on the tail that was read ignores its rejected link, clears it on 0, and
takes any other value as a link; a failed read raises BUS_READ (R31). HELD_FLAG_READ_DONE: a HELD slot whose flag
reads 0 becomes FREE; a failed read raises BUS_READ (R126). The scan then reads the next tail or flag (R137, R146).
The order of a fault and the scan's next read is the model's reading (log 7, log 9). -/
def Obligations.TailAndFlagReads : Prop :=
  (∀ (s : State) (t : TrackId) (a x : Address), InFlightIs s (.scan (.link t a)) x →
    let k := s.tracks.get t
    let u := released s
    let goesOn := scanReads fun held z => nextLinkRead held (t.val + 1) z
    exec (.scanLinkReadDone .error) s =
      .next (goesOn (raiseFault .busRead ⟨some t, 0, none, a, none, 0, s.timebase.count⟩ u)) ∧
    (k.state ≠ .parked ∨ k.segment ≠ a → ∀ v, exec (.scanLinkReadDone (.data v)) s = .next (goesOn u)) ∧
    (k.state = .parked → k.segment = a →
      let z := retireIfDone t a (withTrack t
        { k with
          state := .active
          rejectedLink := none
          fetch := none
          openList := k.openList.map fun r => if r.address = a then { r with fullyFetched := true } else r } u)
      exec (.scanLinkReadDone (.data 0)) s = .next (goesOn (withTrack t { k with rejectedLink := none } u)) ∧
      (∀ v, v ≠ 0 → k.rejectedLink = some v → exec (.scanLinkReadDone (.data v)) s = .next (goesOn u)) ∧
      (∀ v : Address, v ≠ 0 → k.rejectedLink ≠ some v → v.toNat % 64 = 0 →
        exec (.scanLinkReadDone (.data v)) s =
          .next (goesOn (formStatus t (beginEntry t v (z.tracks.get t).segment z)))) ∧
      (∀ v : Address, k.rejectedLink ≠ some v → v.toNat % 64 ≠ 0 →
        exec (.scanLinkReadDone (.data v)) s =
          .next (goesOn (formStatus t (raiseFault .badSegment
            ⟨some t, 0, none, v, none, (z.tracks.get t).pass, s.timebase.count⟩
            (formStatus t (setTrackState t .parked
              (withTrack t { z.tracks.get t with rejectedLink := some v } z))))))))) ∧
  (∀ (s : State) (n : SlotId) (x : Address), InFlightIs s (.scan (.heldFlag n)) x →
    let u := released s
    let goesOn := scanReads fun held _ => nextFlagRead held (n.val + 1)
    exec (.heldFlagReadDone .error) s =
      .next (goesOn (raiseFault .busRead ⟨none, 0, none, x, none, 0, s.timebase.count⟩ u)) ∧
    (∀ b, s.faults.slots.get n = .held → b.getLsbD 0 = false →
      exec (.heldFlagReadDone (.data b)) s =
        .next (goesOn { u with faults := { u.faults with slots := u.faults.slots.put n .free } })) ∧
    (∀ b, s.faults.slots.get n ≠ .held ∨ b.getLsbD 0 = true →
      exec (.heldFlagReadDone (.data b)) s = .next (goesOn u)))

/-- The completions of the seven writes with success: the record is in memory, and then: nothing more for a retire record,
a summary and a status; a capture record leaves the queue and its window's count of waiting records falls, which can request
the summary; a window becomes FREE at its summary; a slot becomes HELD; a result raises DIRECTIVE (R34, R95, R96, R98, R99,
R124, R130, R140, R142, R143). -/
def Obligations.WritesCompleted : Prop :=
  ∀ (s : State) (x : Address),
    (∀ t a r, InFlightIs s (.track t (.retire a r)) x →
      exec (.retireWriteDone .stored) s = .next (servePort (stored x r.bytes (released s)))) ∧
    (∀ g n i, InFlightIs s (.out (.summary g n i)) x →
      exec (.summaryWriteDone .stored) s = .next (servePort (stored x (summaryBytes g n i) (released s)))) ∧
    (∀ t i, InFlightIs s (.out (.status t i)) x →
      exec (.statusWriteDone .stored) s = .next (servePort (stored x i.bytes (released s)))) ∧
    (∀ r, InFlightIs s (.out (.result r)) x →
      exec (.resultWriteDone .stored) s =
        .next (servePort (withCause .directive (stored x r.bytes (released s))))) ∧
    (∀ w, InFlightIs s (.incident w) x →
      exec (.incidentWriteDone .stored) s =
        .next (servePort (stored x w.incident.bytes
          { released s with faults := { s.faults with slots := s.faults.slots.put w.slot .held } }))) ∧
    (∀ w, InFlightIs s (.bucketSummary w) x →
      let k := s.probes.windows.get w.probe
      let u := stored x w.header.bytes (withWindow w.probe { k with state := .free, owner := none } (released s))
      exec (.bucketSummaryWriteDone .stored) s =
        .next (servePort (if k.notify = true then withCause .window u else u))) ∧
    (∀ r, InFlightIs s (.capture r) x →
      let k := s.probes.windows.get r.probe
      let v := withWindow r.probe { k with pending := k.pending - 1 }
        { released s with probes := { s.probes with captures := s.probes.captures.tail } }
      let u := stored x r.bytes v
      (k.state ≠ .closing ∨ 1 < k.pending →
        exec (.captureRecordWriteDone .stored) s = .next (servePort u)) ∧
      (∀ c, k.state = .closing → k.pending = 1 → k.cause = some c →
        exec (.captureRecordWriteDone .stored) s = .next (servePort
          { u with port := { u.port with summaries := u.port.summaries ++
              [⟨r.probe, k.bucket,
                { cause := c, probe := r.probe, edge := k.edge, count := k.count, suppressed := k.suppressed
                  lost := k.lost, firstTime := k.firstTime, lastTime := k.lastTime, openTime := k.openTime
                  closeTime := k.closeTime }⟩] } })))

/-- The completions of writes with an error: nothing is stored, the requester's consequence is applied, and BUS_WRITE
is raised with its context; the one of an incident write takes no slot (R124, R145, R147). A read that is no longer
awaited and fails raises BUS_READ alone (R42, R133). That a failed bucket summary names the owner its window had until
then is the model's choice (log 35). -/
def Obligations.FailedAccesses : Prop :=
  ∀ (s : State) (x : Address),
    let now := s.timebase.count
    let area : FaultContext := ⟨none, 0, none, x, none, 0, now⟩
    let ofWindow := fun p : ProbeId =>
      let k := s.probes.windows.get p
      (⟨k.owner, 0, some p, k.origin.segment, some k.origin.index, k.origin.pass, now⟩ : FaultContext)
    let u := released s
    (∀ t a r, InFlightIs s (.track t (.retire a r)) x →
      exec (.retireWriteDone .error) s =
        .next (servePort (raiseFault .busWrite ⟨some t, 0, none, a, none, 0, now⟩ u))) ∧
    (∀ g n i, InFlightIs s (.out (.summary g n i)) x →
      exec (.summaryWriteDone .error) s =
        .next (servePort (raiseFault .busWrite area { u with port := { u.port with lastSummary := none } }))) ∧
    (∀ t i, InFlightIs s (.out (.status t i)) x →
      exec (.statusWriteDone .error) s =
        .next (servePort (raiseFault .busWrite ⟨some t, 0, none, x, none, 0, now⟩
          { u with port := { u.port with lastStatus := u.port.lastStatus.put t none } }))) ∧
    (∀ r, InFlightIs s (.out (.result r)) x →
      exec (.resultWriteDone .error) s =
        .next (servePort (raiseFault .busWrite area (withCause .directive u)))) ∧
    (∀ w, InFlightIs s (.incident w) x →
      exec (.incidentWriteDone .error) s =
        .next (servePort (takeFault .busWrite area true
          { u with faults := { u.faults with
              slots := u.faults.slots.put w.slot .held, lost := add64 u.faults.lost 1 } }))) ∧
    (∀ w, InFlightIs s (.bucketSummary w) x →
      let k := s.probes.windows.get w.probe
      let v := withWindow w.probe { k with state := .free, owner := none } u
      exec (.bucketSummaryWriteDone .error) s =
        .next (servePort (raiseFault .busWrite (ofWindow w.probe)
          (if k.notify = true then withCause .window v else v)))) ∧
    (∀ r, InFlightIs s (.capture r) x →
      let k := s.probes.windows.get r.probe
      let v := withWindow r.probe { k with pending := k.pending - 1 }
        { u with probes := { u.probes with captures := u.probes.captures.tail } }
      (k.state ≠ .closing ∨ 1 < k.pending →
        exec (.captureRecordWriteDone .error) s =
          .next (servePort (raiseFault .busWrite (ofWindow r.probe) v))) ∧
      (∀ c, k.state = .closing → k.pending = 1 → k.cause = some c →
        exec (.captureRecordWriteDone .error) s = .next (servePort (raiseFault .busWrite (ofWindow r.probe)
          { v with port := { v.port with summaries := v.port.summaries ++
              [⟨r.probe, k.bucket,
                { cause := c, probe := r.probe, edge := k.edge, count := k.count, suppressed := k.suppressed
                  lost := k.lost, firstTime := k.firstTime, lastTime := k.lastTime, openTime := k.openTime
                  closeTime := k.closeTime }⟩] } })))) ∧
    (∀ t a p g, InFlightIs s (.track t (.header a p g)) x → headerTaken (s.tracks.get t) a g = false →
      exec (.headerReadDone .error) s =
        .next (servePort (raiseFault .busRead ⟨some t, 0, none, a, none, p, now⟩ u))) ∧
    (∀ t a i p g, InFlightIs s (.track t (.action a i p g)) x → segmentTaken (s.tracks.get t) a g = false →
      exec (.actionReadDone .error) s =
        .next (servePort (raiseFault .busRead ⟨some t, 0, none, a, some i, p, now⟩ u))) ∧
    (∀ t a m p g, InFlightIs s (.track t (.link a m p g)) x → segmentTaken (s.tracks.get t) a g = false →
      exec (.linkWordReadDone .error) s =
        .next (servePort (raiseFault .busRead ⟨some t, 0, none, a, none, p, now⟩ u)))

/-! ## Directives -/

/-- DIRECTIVE_SLOT_READ_DONE. The fields of the slot (spec 10.3). A slot with number 0 or the last one seen is not
taken; a failed read takes nothing and raises BUS_READ (R138). A taken START_TRACK in range has its descriptor read
(R139), out of range it is refused; a code that is no kind is UNKNOWN_KIND (R154). The nine directive rows are this
completion with a slot that holds their kind (R183, log 5), and each is OVERLAP while a drain is in progress, but an
ABORT_TRACK of its track (R153). The order of a fault and the scan's next read is the model's reading (log 9). -/
def Obligations.SlotReads : Prop :=
  ∀ (s : State) (a : Address), InFlightIs s (.scan .directiveSlot) a →
    exec (.directiveSlotReadDone .error) s =
      .next (scanGoesOn (raiseFault .busRead ⟨none, 0, none, a, none, 0, s.timebase.count⟩ (released s))) ∧
    (∀ b : BitVec 256,
      let d : DirectiveSlot :=
        { sequence := b.extractLsb' 0 16, kind := b.extractLsb' 16 8, arg1 := b.extractLsb' 64 64
          arg2 := b.extractLsb' 128 64, arg3 := b.extractLsb' 192 64 }
      let u := slotTakenState d.sequence s
      (d.sequence = 0 ∨ d.sequence = s.directives.lastSeen →
        exec (.directiveSlotReadDone (.data b)) s = .next (scanGoesOn (released s))) ∧
      (d.sequence ≠ 0 → d.sequence ≠ s.directives.lastSeen →
        (∀ t : TrackId, d.kind.toNat = 1 → d.arg1.toNat = t.val →
          exec (.directiveSlotReadDone (.data b)) s =
            .next (servePort { u with port := { u.port with scanRead := some (.descriptor t d.sequence) } })) ∧
        (∀ r, s.directives.drain = some r →
          (d.kind.toNat = 1 ∧ 8 ≤ d.arg1.toNat) ∨ d.kind.toNat = 0 ∨ 10 < d.kind.toNat →
          exec (.directiveSlotReadDone (.data b)) s =
            .next (scanGoesOn (withResult d.sequence .overlap (r.sequence.setWidth 32) u))) ∧
        (s.directives.drain = none →
          (d.kind.toNat = 1 → 8 ≤ d.arg1.toNat →
            exec (.directiveSlotReadDone (.data b)) s =
              .next (scanGoesOn (withResult d.sequence .refusedArgument 1 u))) ∧
          (d.kind.toNat = 0 ∨ 10 < d.kind.toNat →
            exec (.directiveSlotReadDone (.data b)) s =
              .next (scanGoesOn (withResult d.sequence .unknownKind (d.kind.setWidth 32) u))))) ∧
      (d.kind.toNat = 2 → exec (.directiveSlotReadDone (.data b)) s = exec (.drainTrack d.sequence d.arg1) s) ∧
      (d.kind.toNat = 3 → exec (.directiveSlotReadDone (.data b)) s = exec (.abortTrack d.sequence d.arg1) s) ∧
      (d.kind.toNat = 4 → exec (.directiveSlotReadDone (.data b)) s = exec (.clearTrack d.sequence d.arg1) s) ∧
      (d.kind.toNat = 5 → exec (.directiveSlotReadDone (.data b)) s = exec (.setGang d.sequence d.arg1 d.arg2) s) ∧
      (d.kind.toNat = 6 →
        exec (.directiveSlotReadDone (.data b)) s = exec (.configureLane d.sequence d.arg1 d.arg2) s) ∧
      (d.kind.toNat = 7 →
        exec (.directiveSlotReadDone (.data b)) s = exec (.setFaultPolicy d.sequence d.arg1 d.arg2 d.arg3) s) ∧
      (d.kind.toNat = 8 → exec (.directiveSlotReadDone (.data b)) s = exec (.ackFaults d.sequence d.arg1) s) ∧
      (d.kind.toNat = 9 → exec (.directiveSlotReadDone (.data b)) s = exec (.loadTime d.sequence d.arg1) s) ∧
      (d.kind.toNat = 10 → exec (.directiveSlotReadDone (.data b)) s = exec (.setFrame d.sequence d.arg1) s)) ∧
    (∀ (n : Word16) (x y z : Word64) (r : Drain), n ≠ 0 → n ≠ s.directives.lastSeen → s.directives.drain = some r →
      let overlap : Host.Outcome State Fault Refusal :=
        .next (scanGoesOn (withResult n .overlap (r.sequence.setWidth 32) (slotTakenState n s)))
      (∀ c ∈ [Instr.drainTrack n x, .clearTrack n x, .setGang n x y, .configureLane n x y, .setFaultPolicy n x y z,
          .ackFaults n x, .loadTime n x, .setFrame n x], exec c s = overlap) ∧
      (x.toNat ≠ r.track.val → exec (.abortTrack n x) s = overlap))

/-- SET_GANG, CONFIGURE_LANE, SET_FAULT_POLICY and ACK_FAULTS, in any device state: their checks in order, with the
outcome and detail of each refusal, and their effects with DONE and the detail of each (R161, R162, R163, R164, R127,
R154). The codes in arguments and details are those of spec 10.2. -/
def Obligations.TableDirectives : Prop :=
  ∀ (s : State) (n : Word16), SlotTakes s n →
    let u := slotTakenState n s
    let answered := fun (o : DirectiveOutcome) (k : Nat) (v : State) =>
      (.next (scanGoesOn (withResult n o (BitVec.ofNat 32 k) v)) : Host.Outcome State Fault Refusal)
    CodeTable ∧
    (∀ x y : Word64, 6 ≤ x.toNat → exec (.setGang n x y) s = answered .refusedArgument 1 u) ∧
    (∀ (g : GangId) (x y : Word64), x.toNat = g.val →
      let uses := (s.queue.entries.filter fun e => e.gang == some g).length
      (uses ≠ 0 → exec (.setGang n x y) s = answered .refusedInUse uses u) ∧
      (uses = 0 → exec (.setGang n x y) s =
        answered .done (s.gangs.get g).toNat { u with gangs := u.gangs.put g (y.extractLsb' 0 16) })) ∧
    (∀ x y : Word64,
      (16 ≤ x.toNat → exec (.configureLane n x y) s = answered .refusedArgument 1 u) ∧
      (x.toNat < 16 → 3 ≤ y.toNat → exec (.configureLane n x y) s = answered .refusedArgument 2 u)) ∧
    (∀ (l : LaneId) (v : Level) (x y : Word64), x.toNat = l.val → y.toNat = v.code →
      (∀ t, (s.lanes.get l).owner = some t → exec (.configureLane n x y) s = answered .refusedInUse t.val u) ∧
      ((s.lanes.get l).owner = none → exec (.configureLane n x y) s =
        answered .done (s.lanes.get l).safe.code
          { u with lanes := u.lanes.put l { s.lanes.get l with safe := v, level := v } })) ∧
    (∀ x y z : Word64,
      (12 ≤ x.toNat → exec (.setFaultPolicy n x y z) s = answered .refusedArgument 1 u) ∧
      (x.toNat < 12 → 4 ≤ y.toNat → exec (.setFaultPolicy n x y z) s = answered .refusedArgument 2 u) ∧
      (x.toNat < 12 → y.toNat < 4 → 2 ≤ z.toNat →
        exec (.setFaultPolicy n x y z) s = answered .refusedArgument 3 u)) ∧
    (∀ (k : FaultKind) (c : FaultClass) (m : Bool) (x y z : Word64),
      x.toNat = k.code.val → y.toNat = c.code → z.toNat = m.toNat →
      exec (.setFaultPolicy n x y z) s =
        answered .done ((s.faults.policy.get k.code).cls.code + 256 * (s.faults.policy.get k.code).masked.toNat)
          { u with faults := { u.faults with policy := u.faults.policy.put k.code ⟨c, m⟩ } }) ∧
    (∀ x : Word64,
      (2 ^ 12 ≤ x.toNat → exec (.ackFaults n x) s = answered .refusedArgument 1 u) ∧
      (x.toNat < 2 ^ 12 →
        ∃ w : BitVec 12, (∀ i < 12, w.getLsbD i = (s.faults.word.getLsbD i && !x.getLsbD i)) ∧
          exec (.ackFaults n x) s = answered .done w.toNat
            { u with faults := { u.faults with
                word := w
                first := { s.faults.first with
                  valid := if w = 0 then false else s.faults.first.valid } } }))

/-- LOAD_TIME and SET_FRAME: their checks in order, their effects on the count and on F alone, their outcomes and details;
the time of a LOAD_TIME that is DONE is the loaded value (R7, R8, R165). -/
def Obligations.TimeDirectives : Prop :=
  ∀ (s : State) (n : Word16) (x : Word64), SlotTakes s n →
    let u := slotTakenState n s
    let answered := fun (o : DirectiveOutcome) (k : Nat) (v : State) =>
      (.next (scanGoesOn (withResult n o (BitVec.ofNat 32 k) v)) : Host.Outcome State Fault Refusal)
    (s.control.device ≠ .stopped →
      exec (.loadTime n x) s = answered .refusedDeviceState s.control.device.code u ∧
      exec (.setFrame n x) s = answered .refusedDeviceState s.timebase.frame u) ∧
    (s.control.device = .stopped →
      (2 ^ 63 ≤ x.toNat → exec (.loadTime n x) s = answered .refusedArgument 1 u) ∧
      (x.toNat < 2 ^ 63 →
        exec (.loadTime n x) s = answered .done 0 { u with timebase := { u.timebase with count := x } }) ∧
      (x.toNat < 12 ∨ 24 < x.toNat → exec (.setFrame n x) s = answered .refusedArgument s.timebase.frame u) ∧
      (12 ≤ x.toNat → x.toNat ≤ 24 →
        exec (.setFrame n x) s =
          answered .done x.toNat { u with timebase := { u.timebase with frame := x.toNat } }))

/-- DRAIN_TRACK, ABORT_TRACK and CLEAR_TRACK: the refusals for the index, the device state and the track state; the
drain placed in progress, or ended at once with an empty queue; the abort answered with the number of entries purged;
the clearing answered with the halt kind that was held (R36, R37, R41, R152, R154, R156, R158, R159). An ABORT_TRACK
of the track that drains is no OVERLAP: the drain is answered ENDED_BY_ABORT, and then the abort DONE (R153, R157,
R158). The end of a drain and an abort form the status write of the track (R143), and request the summaries of the
windows they close with no record pending, and keep the other requests that wait, the capture queue and the access in
flight (R94, R95, R107, R148). An edge or timeout of this tick that has been handed over and has not reached the
engine finds it outside AWAITING and has no effect (R106, R26). A CLEAR_TRACK of a track that such an outcome returns from
AWAITING finds it ACTIVE, the return being taken whole before the check (R160); a drain later at that tick leaves the
anchor as it was before the await resolved (R106). Where the status write is formed and that it stands in class 5
before the results, the order of those summaries, when an outcome reaches its engine, and that a drain ended at once
has the number of records cut as its detail, are the model's (log 7, log 10, log 30, log 34, log 36). -/
def Obligations.TrackDirectives : Prop :=
  (∀ (s : State) (n : Word16), SlotTakes s n →
    let u := slotTakenState n s
    let answered := fun (o : DirectiveOutcome) (k : Nat) (v : State) =>
      (.next (scanGoesOn (withResult n o (BitVec.ofNat 32 k) v)) : Host.Outcome State Fault Refusal)
    (∀ x : Word64, 8 ≤ x.toNat →
      ∀ c ∈ [Instr.drainTrack n x, .abortTrack n x, .clearTrack n x], exec c s = answered .refusedArgument 1 u) ∧
    (∀ (t : TrackId) (x : Word64), x.toNat = t.val →
      let k := s.tracks.get t
      (s.control.device ≠ .running →
        ∀ c ∈ [Instr.drainTrack n x, .abortTrack n x], exec c s = answered .refusedDeviceState s.control.device.code u) ∧
      (k.state ≠ .halted → (k.state ≠ .awaiting ∨ k.outcome = none ∨ ∃ a, k.outcome = some (.taken a)) →
        exec (.clearTrack n x) s = answered .refusedTrackState k.state.code u) ∧
      (∀ o, k.state = .awaiting → k.outcome = some o → (∀ a, o ≠ .taken a) →
        exec (.clearTrack n x) s = answered .refusedTrackState TrackState.active.code (withTrack t
          { (takeOutcome t u).tracks.get t with outcome := some (.taken k.anchor) } (takeOutcome t u))) ∧
      (∀ h, k.state = .halted → k.haltKind = some h →
        exec (.clearTrack n x) s = answered .done h.code.val (formStatus t (withTrack t
          { k with
            state := .off, haltKind := none, rejectedLink := none
            stallQuota := false, stallSegments := false, stallPort := false } u))) ∧
      (s.control.device = .running →
        (k.state = .off ∨ k.state = .halted → exec (.abortTrack n x) s = answered .refusedTrackState k.state.code u) ∧
        (k.state = .off ∨ k.state = .halted ∨ k.state = .closing →
          exec (.drainTrack n x) s = answered .refusedTrackState k.state.code u) ∧
        (k.state.alive = true →
          exec (.abortTrack n x) s =
            answered .done (s.queue.entries.filter fun e => e.track == t).length
              (abortTrack t .trackEnd (n.setWidth 32) u)) ∧
        (k.state = .active ∨ k.state = .awaiting ∨ k.state = .parked →
          let v := formStatus t (withTrack t
            { k with
              state := .closing, stallQuota := false, stallSegments := false, stallPort := false
              pendingLink := none, readGeneration := k.readGeneration + 1, outcome := none
              anchor := match k.outcome with
                | some (.taken before) => before
                | _ => k.anchor }
            { u with
              probes := { u.probes with
                listeners := Table.tab fun p =>
                  if (s.probes.listeners.get p).armed = true ∧ (s.probes.listeners.get p).owner = some t then
                    { s.probes.listeners.get p with armed := false, owner := none, timeout := none }
                  else s.probes.listeners.get p } })
          let w : State := { v with directives := { v.directives with drain := some ⟨n, t⟩ } }
          (k.queued ≠ 0 → exec (.drainTrack n x) s = .next (scanGoesOn w)) ∧
          (k.queued = 0 → exec (.drainTrack n x) s = .next (scanGoesOn (endDrain t w)))))) ∧
    (∀ (t : TrackId) (v : State), v.directives.drain = some ⟨n, t⟩ → (v.tracks.get t).pendingLink = none →
      let z := endDrain t v
      CutsRequested t v z ∧ z.directives.drain = none ∧
      z.port.out.getLast? =
        some (.result ⟨n, .done, BitVec.ofNat 32 (v.tracks.get t).openList.length, v.timebase.count⟩) ∧
      z.tracks.get t =
        { v.tracks.get t with
          state := .off, openList := [], stallQuota := false, stallSegments := false, stallPort := false } ∧
      StatusFormed t z ∧ RaisesOnly [.retired] v z ∧ z.control = { v.control with attention := z.control.attention } ∧
      (∀ l, z.lanes.get l =
        if (v.lanes.get l).owner = some t then
          { v.lanes.get l with owner := none, level := (v.lanes.get l).safe, returnEdge := none }
        else v.lanes.get l) ∧
      (∀ p, z.probes.windows.get p =
        if (v.probes.windows.get p).owner = some t ∧ (v.probes.windows.get p).state = .isOpen then
          { v.probes.windows.get p with state := .closing, cause := some .trackEnd, closeTime := v.timebase.count }
        else v.probes.windows.get p) ∧
      z.port.summaries = v.port.summaries ++ closingSummaries (ownedBy t) .trackEnd v ∧
      (∀ x, x ≠ t → z.port.tracks.get x = v.port.tracks.get x) ∧ QueuesKept v z ∧
      z.queue = v.queue ∧ z.faults = v.faults ∧ z.timebase = v.timebase)) ∧
  (∀ (s : State) (a : Address) (n q : Word16) (t : TrackId) (x : Word64),
    InFlightIs s (.scan .directiveSlot) a → n ≠ 0 → n ≠ s.directives.lastSeen → s.directives.drain = some ⟨q, t⟩ →
    x.toNat = t.val →
    let u := slotTakenState n s
    let answered := fun (o : DirectiveOutcome) (k : Nat) (v : State) =>
      (.next (scanGoesOn (withResult n o (BitVec.ofNat 32 k) v)) : Host.Outcome State Fault Refusal)
    (s.control.device ≠ .running →
      exec (.abortTrack n x) s = answered .refusedDeviceState s.control.device.code u) ∧
    (s.control.device = .running → (s.tracks.get t).state.alive = false →
      exec (.abortTrack n x) s = answered .refusedTrackState (s.tracks.get t).state.code u) ∧
    (s.control.device = .running → (s.tracks.get t).state.alive = true →
      let z := abortTrack t .trackEnd (n.setWidth 32) u
      exec (.abortTrack n x) s = answered .done (s.queue.entries.filter fun e => e.track == t).length z ∧
      z.directives.drain = none ∧
      z.port.out.getLast? = some (.result ⟨q, .endedByAbort, n.setWidth 32, s.timebase.count⟩) ∧
      z.tracks.get t = { trackEnded t u with state := .off } ∧ StatusFormed t z ∧ Stripped t .trackEnd u z ∧
      PurgedAndCut t u z))

/-- START_TRACK at its descriptor's completion: the fields of the descriptor (spec 10.3), the checks of R155 in order
with their outcomes and details, and the start: what the engine takes from the descriptor, its anchor now, and entry
into the head (R14, R16, R139, R153). A START_TRACK of a track that an outcome of this tick returns from AWAITING finds
it ACTIVE, the return being taken whole before the check (R160). The order of a fault and the scan's next read, where
the status write is formed, that it stands in class 5 before the result, and when an outcome reaches its engine, are
the model's (log 7, log 9, log 30, log 36). -/
def Obligations.StartTrackExecuted : Prop :=
  ∀ (s : State) (t : TrackId) (q : Word16) (a : Address), InFlightIs s (.scan (.descriptor t q)) a →
    let u := released s
    let k := s.tracks.get t
    let c : FaultContext := ⟨none, 0, none, a, none, 0, s.timebase.count⟩
    let room := fun v : State =>
      64 - (allTracks.map fun t => if (v.tracks.get t).state = .off then 0 else (v.tracks.get t).quota).sum
    let answered := fun (o : DirectiveOutcome) (k : Nat) (v : State) => withResult q o (BitVec.ofNat 32 k) v
    (∀ r, s.directives.drain = some r →
      (∀ b, exec (.startTrack (.data b)) s = .next (scanGoesOn (answered .overlap r.sequence.toNat u))) ∧
      exec (.startTrack .error) s =
        .next (scanGoesOn (raiseFault .busRead c (answered .overlap r.sequence.toNat u)))) ∧
    (s.directives.drain = none →
      exec (.startTrack .error) s = .next (scanGoesOn (raiseFault .busRead c (answered .refusedArgument 3 u))) ∧
      (∀ b,
        let d : Descriptor :=
          { head := b.extractLsb' 0 64, quota := (b.extractLsb' 64 8).toNat
            retireNotifyAll := b.getLsbD 72, keepTotals := b.getLsbD 73 }
        (s.control.device ≠ .running →
          exec (.startTrack (.data b)) s =
            .next (scanGoesOn (answered .refusedDeviceState s.control.device.code u))) ∧
        (s.control.device = .running → k.state ≠ .off →
          (k.state ≠ .awaiting ∨ k.outcome = none ∨ ∃ a, k.outcome = some (.taken a)) →
          exec (.startTrack (.data b)) s = .next (scanGoesOn (answered .refusedTrackState k.state.code u))) ∧
        (∀ o, s.control.device = .running → k.state = .awaiting → k.outcome = some o → (∀ a, o ≠ .taken a) →
          exec (.startTrack (.data b)) s =
            .next (scanGoesOn (answered .refusedTrackState TrackState.active.code (withTrack t
              { (takeOutcome t u).tracks.get t with outcome := some (.taken k.anchor) } (takeOutcome t u))))) ∧
        (s.control.device = .running → k.state = .off →
          (d.quota = 0 ∨ room s < d.quota →
            exec (.startTrack (.data b)) s = .next (scanGoesOn (answered .refusedQuota (room s) u))) ∧
          (d.quota ≠ 0 → d.quota ≤ room s →
            (d.head = 0 ∨ d.head.toNat % 64 ≠ 0 →
              exec (.startTrack (.data b)) s = .next (scanGoesOn (answered .refusedArgument 2 u))) ∧
            (d.head ≠ 0 → d.head.toNat % 64 = 0 →
              let v := formStatus t (beginEntry t d.head 0 (withTrack t
                { k with
                  state := .active, haltKind := none, quota := d.quota, retireNotifyAll := d.retireNotifyAll
                  keepTotals := d.keepTotals, anchor := s.timebase.count, segment := d.head, cursor := 0, pass := 0
                  fetch := none, pendingLink := none, rejectedLink := none
                  dispatchedTotal := if d.keepTotals = true then k.dispatchedTotal else 0
                  droppedTotal := if d.keepTotals = true then k.droppedTotal else 0
                  outcome := none } u))
              exec (.startTrack (.data b)) s = .next (scanGoesOn (answered .done (room v) v)))))))

end
end

