-- ==== Sys2Proof/Laws/State.lean ====
section
/-! SUPPORT. Reading a field of State after an update of one block: one lemma per field and update, each true by
definition. -/

namespace Sys2Proof.Machine.Laws

/-! ## modTrack -/

@[simp] theorem modTrack_timebase (s : State) (t : TrackId) (f : Track → Track) :
    (s.modTrack t f).timebase = s.timebase := rfl
@[simp] theorem modTrack_tracks (s : State) (t : TrackId) (f : Track → Track) :
    (s.modTrack t f).tracks = s.tracks.modify t f := rfl
@[simp] theorem modTrack_queue (s : State) (t : TrackId) (f : Track → Track) :
    (s.modTrack t f).queue = s.queue := rfl
@[simp] theorem modTrack_lanes (s : State) (t : TrackId) (f : Track → Track) :
    (s.modTrack t f).lanes = s.lanes := rfl
@[simp] theorem modTrack_gangs (s : State) (t : TrackId) (f : Track → Track) :
    (s.modTrack t f).gangs = s.gangs := rfl
@[simp] theorem modTrack_probes (s : State) (t : TrackId) (f : Track → Track) :
    (s.modTrack t f).probes = s.probes := rfl
@[simp] theorem modTrack_faults (s : State) (t : TrackId) (f : Track → Track) :
    (s.modTrack t f).faults = s.faults := rfl
@[simp] theorem modTrack_port (s : State) (t : TrackId) (f : Track → Track) :
    (s.modTrack t f).port = s.port := rfl
@[simp] theorem modTrack_scanner (s : State) (t : TrackId) (f : Track → Track) :
    (s.modTrack t f).scanner = s.scanner := rfl
@[simp] theorem modTrack_directives (s : State) (t : TrackId) (f : Track → Track) :
    (s.modTrack t f).directives = s.directives := rfl
@[simp] theorem modTrack_control (s : State) (t : TrackId) (f : Track → Track) :
    (s.modTrack t f).control = s.control := rfl
@[simp] theorem modTrack_memory (s : State) (t : TrackId) (f : Track → Track) :
    (s.modTrack t f).memory = s.memory := rfl
@[simp] theorem modTrack_pending (s : State) (t : TrackId) (f : Track → Track) :
    (s.modTrack t f).pending = s.pending := rfl

/-! ## modPort -/

@[simp] theorem modPort_timebase (s : State) (f : Port → Port) :
    (s.modPort f).timebase = s.timebase := rfl
@[simp] theorem modPort_tracks (s : State) (f : Port → Port) :
    (s.modPort f).tracks = s.tracks := rfl
@[simp] theorem modPort_queue (s : State) (f : Port → Port) :
    (s.modPort f).queue = s.queue := rfl
@[simp] theorem modPort_lanes (s : State) (f : Port → Port) :
    (s.modPort f).lanes = s.lanes := rfl
@[simp] theorem modPort_gangs (s : State) (f : Port → Port) :
    (s.modPort f).gangs = s.gangs := rfl
@[simp] theorem modPort_probes (s : State) (f : Port → Port) :
    (s.modPort f).probes = s.probes := rfl
@[simp] theorem modPort_faults (s : State) (f : Port → Port) :
    (s.modPort f).faults = s.faults := rfl
@[simp] theorem modPort_port (s : State) (f : Port → Port) :
    (s.modPort f).port = f s.port := rfl
@[simp] theorem modPort_scanner (s : State) (f : Port → Port) :
    (s.modPort f).scanner = s.scanner := rfl
@[simp] theorem modPort_directives (s : State) (f : Port → Port) :
    (s.modPort f).directives = s.directives := rfl
@[simp] theorem modPort_control (s : State) (f : Port → Port) :
    (s.modPort f).control = s.control := rfl
@[simp] theorem modPort_memory (s : State) (f : Port → Port) :
    (s.modPort f).memory = s.memory := rfl
@[simp] theorem modPort_pending (s : State) (f : Port → Port) :
    (s.modPort f).pending = s.pending := rfl

/-! ## modQueue -/

@[simp] theorem modQueue_timebase (s : State) (f : DueQueue → DueQueue) :
    (s.modQueue f).timebase = s.timebase := rfl
@[simp] theorem modQueue_tracks (s : State) (f : DueQueue → DueQueue) :
    (s.modQueue f).tracks = s.tracks := rfl
@[simp] theorem modQueue_queue (s : State) (f : DueQueue → DueQueue) :
    (s.modQueue f).queue = f s.queue := rfl
@[simp] theorem modQueue_lanes (s : State) (f : DueQueue → DueQueue) :
    (s.modQueue f).lanes = s.lanes := rfl
@[simp] theorem modQueue_gangs (s : State) (f : DueQueue → DueQueue) :
    (s.modQueue f).gangs = s.gangs := rfl
@[simp] theorem modQueue_probes (s : State) (f : DueQueue → DueQueue) :
    (s.modQueue f).probes = s.probes := rfl
@[simp] theorem modQueue_faults (s : State) (f : DueQueue → DueQueue) :
    (s.modQueue f).faults = s.faults := rfl
@[simp] theorem modQueue_port (s : State) (f : DueQueue → DueQueue) :
    (s.modQueue f).port = s.port := rfl
@[simp] theorem modQueue_scanner (s : State) (f : DueQueue → DueQueue) :
    (s.modQueue f).scanner = s.scanner := rfl
@[simp] theorem modQueue_directives (s : State) (f : DueQueue → DueQueue) :
    (s.modQueue f).directives = s.directives := rfl
@[simp] theorem modQueue_control (s : State) (f : DueQueue → DueQueue) :
    (s.modQueue f).control = s.control := rfl
@[simp] theorem modQueue_memory (s : State) (f : DueQueue → DueQueue) :
    (s.modQueue f).memory = s.memory := rfl
@[simp] theorem modQueue_pending (s : State) (f : DueQueue → DueQueue) :
    (s.modQueue f).pending = s.pending := rfl

/-! ## modProbes -/

@[simp] theorem modProbes_timebase (s : State) (f : ProbeBank → ProbeBank) :
    (s.modProbes f).timebase = s.timebase := rfl
@[simp] theorem modProbes_tracks (s : State) (f : ProbeBank → ProbeBank) :
    (s.modProbes f).tracks = s.tracks := rfl
@[simp] theorem modProbes_queue (s : State) (f : ProbeBank → ProbeBank) :
    (s.modProbes f).queue = s.queue := rfl
@[simp] theorem modProbes_lanes (s : State) (f : ProbeBank → ProbeBank) :
    (s.modProbes f).lanes = s.lanes := rfl
@[simp] theorem modProbes_gangs (s : State) (f : ProbeBank → ProbeBank) :
    (s.modProbes f).gangs = s.gangs := rfl
@[simp] theorem modProbes_probes (s : State) (f : ProbeBank → ProbeBank) :
    (s.modProbes f).probes = f s.probes := rfl
@[simp] theorem modProbes_faults (s : State) (f : ProbeBank → ProbeBank) :
    (s.modProbes f).faults = s.faults := rfl
@[simp] theorem modProbes_port (s : State) (f : ProbeBank → ProbeBank) :
    (s.modProbes f).port = s.port := rfl
@[simp] theorem modProbes_scanner (s : State) (f : ProbeBank → ProbeBank) :
    (s.modProbes f).scanner = s.scanner := rfl
@[simp] theorem modProbes_directives (s : State) (f : ProbeBank → ProbeBank) :
    (s.modProbes f).directives = s.directives := rfl
@[simp] theorem modProbes_control (s : State) (f : ProbeBank → ProbeBank) :
    (s.modProbes f).control = s.control := rfl
@[simp] theorem modProbes_memory (s : State) (f : ProbeBank → ProbeBank) :
    (s.modProbes f).memory = s.memory := rfl
@[simp] theorem modProbes_pending (s : State) (f : ProbeBank → ProbeBank) :
    (s.modProbes f).pending = s.pending := rfl

/-! ## modFaults -/

@[simp] theorem modFaults_timebase (s : State) (f : FaultCollector → FaultCollector) :
    (s.modFaults f).timebase = s.timebase := rfl
@[simp] theorem modFaults_tracks (s : State) (f : FaultCollector → FaultCollector) :
    (s.modFaults f).tracks = s.tracks := rfl
@[simp] theorem modFaults_queue (s : State) (f : FaultCollector → FaultCollector) :
    (s.modFaults f).queue = s.queue := rfl
@[simp] theorem modFaults_lanes (s : State) (f : FaultCollector → FaultCollector) :
    (s.modFaults f).lanes = s.lanes := rfl
@[simp] theorem modFaults_gangs (s : State) (f : FaultCollector → FaultCollector) :
    (s.modFaults f).gangs = s.gangs := rfl
@[simp] theorem modFaults_probes (s : State) (f : FaultCollector → FaultCollector) :
    (s.modFaults f).probes = s.probes := rfl
@[simp] theorem modFaults_faults (s : State) (f : FaultCollector → FaultCollector) :
    (s.modFaults f).faults = f s.faults := rfl
@[simp] theorem modFaults_port (s : State) (f : FaultCollector → FaultCollector) :
    (s.modFaults f).port = s.port := rfl
@[simp] theorem modFaults_scanner (s : State) (f : FaultCollector → FaultCollector) :
    (s.modFaults f).scanner = s.scanner := rfl
@[simp] theorem modFaults_directives (s : State) (f : FaultCollector → FaultCollector) :
    (s.modFaults f).directives = s.directives := rfl
@[simp] theorem modFaults_control (s : State) (f : FaultCollector → FaultCollector) :
    (s.modFaults f).control = s.control := rfl
@[simp] theorem modFaults_memory (s : State) (f : FaultCollector → FaultCollector) :
    (s.modFaults f).memory = s.memory := rfl
@[simp] theorem modFaults_pending (s : State) (f : FaultCollector → FaultCollector) :
    (s.modFaults f).pending = s.pending := rfl

/-! ## modControl -/

@[simp] theorem modControl_timebase (s : State) (f : Control → Control) :
    (s.modControl f).timebase = s.timebase := rfl
@[simp] theorem modControl_tracks (s : State) (f : Control → Control) :
    (s.modControl f).tracks = s.tracks := rfl
@[simp] theorem modControl_queue (s : State) (f : Control → Control) :
    (s.modControl f).queue = s.queue := rfl
@[simp] theorem modControl_lanes (s : State) (f : Control → Control) :
    (s.modControl f).lanes = s.lanes := rfl
@[simp] theorem modControl_gangs (s : State) (f : Control → Control) :
    (s.modControl f).gangs = s.gangs := rfl
@[simp] theorem modControl_probes (s : State) (f : Control → Control) :
    (s.modControl f).probes = s.probes := rfl
@[simp] theorem modControl_faults (s : State) (f : Control → Control) :
    (s.modControl f).faults = s.faults := rfl
@[simp] theorem modControl_port (s : State) (f : Control → Control) :
    (s.modControl f).port = s.port := rfl
@[simp] theorem modControl_scanner (s : State) (f : Control → Control) :
    (s.modControl f).scanner = s.scanner := rfl
@[simp] theorem modControl_directives (s : State) (f : Control → Control) :
    (s.modControl f).directives = s.directives := rfl
@[simp] theorem modControl_control (s : State) (f : Control → Control) :
    (s.modControl f).control = f s.control := rfl
@[simp] theorem modControl_memory (s : State) (f : Control → Control) :
    (s.modControl f).memory = s.memory := rfl
@[simp] theorem modControl_pending (s : State) (f : Control → Control) :
    (s.modControl f).pending = s.pending := rfl

/-! ## modWindow -/

@[simp] theorem modWindow_timebase (s : State) (p : ProbeId) (f : Window → Window) :
    (s.modWindow p f).timebase = s.timebase := rfl
@[simp] theorem modWindow_tracks (s : State) (p : ProbeId) (f : Window → Window) :
    (s.modWindow p f).tracks = s.tracks := rfl
@[simp] theorem modWindow_queue (s : State) (p : ProbeId) (f : Window → Window) :
    (s.modWindow p f).queue = s.queue := rfl
@[simp] theorem modWindow_lanes (s : State) (p : ProbeId) (f : Window → Window) :
    (s.modWindow p f).lanes = s.lanes := rfl
@[simp] theorem modWindow_gangs (s : State) (p : ProbeId) (f : Window → Window) :
    (s.modWindow p f).gangs = s.gangs := rfl
@[simp] theorem modWindow_probes (s : State) (p : ProbeId) (f : Window → Window) :
    (s.modWindow p f).probes = { s.probes with windows := s.probes.windows.modify p f } := rfl
@[simp] theorem modWindow_faults (s : State) (p : ProbeId) (f : Window → Window) :
    (s.modWindow p f).faults = s.faults := rfl
@[simp] theorem modWindow_port (s : State) (p : ProbeId) (f : Window → Window) :
    (s.modWindow p f).port = s.port := rfl
@[simp] theorem modWindow_scanner (s : State) (p : ProbeId) (f : Window → Window) :
    (s.modWindow p f).scanner = s.scanner := rfl
@[simp] theorem modWindow_directives (s : State) (p : ProbeId) (f : Window → Window) :
    (s.modWindow p f).directives = s.directives := rfl
@[simp] theorem modWindow_control (s : State) (p : ProbeId) (f : Window → Window) :
    (s.modWindow p f).control = s.control := rfl
@[simp] theorem modWindow_memory (s : State) (p : ProbeId) (f : Window → Window) :
    (s.modWindow p f).memory = s.memory := rfl
@[simp] theorem modWindow_pending (s : State) (p : ProbeId) (f : Window → Window) :
    (s.modWindow p f).pending = s.pending := rfl

/-! ## modListener -/

@[simp] theorem modListener_timebase (s : State) (p : ProbeId) (f : Listener → Listener) :
    (s.modListener p f).timebase = s.timebase := rfl
@[simp] theorem modListener_tracks (s : State) (p : ProbeId) (f : Listener → Listener) :
    (s.modListener p f).tracks = s.tracks := rfl
@[simp] theorem modListener_queue (s : State) (p : ProbeId) (f : Listener → Listener) :
    (s.modListener p f).queue = s.queue := rfl
@[simp] theorem modListener_lanes (s : State) (p : ProbeId) (f : Listener → Listener) :
    (s.modListener p f).lanes = s.lanes := rfl
@[simp] theorem modListener_gangs (s : State) (p : ProbeId) (f : Listener → Listener) :
    (s.modListener p f).gangs = s.gangs := rfl
@[simp] theorem modListener_probes (s : State) (p : ProbeId) (f : Listener → Listener) :
    (s.modListener p f).probes = { s.probes with listeners := s.probes.listeners.modify p f } := rfl
@[simp] theorem modListener_faults (s : State) (p : ProbeId) (f : Listener → Listener) :
    (s.modListener p f).faults = s.faults := rfl
@[simp] theorem modListener_port (s : State) (p : ProbeId) (f : Listener → Listener) :
    (s.modListener p f).port = s.port := rfl
@[simp] theorem modListener_scanner (s : State) (p : ProbeId) (f : Listener → Listener) :
    (s.modListener p f).scanner = s.scanner := rfl
@[simp] theorem modListener_directives (s : State) (p : ProbeId) (f : Listener → Listener) :
    (s.modListener p f).directives = s.directives := rfl
@[simp] theorem modListener_control (s : State) (p : ProbeId) (f : Listener → Listener) :
    (s.modListener p f).control = s.control := rfl
@[simp] theorem modListener_memory (s : State) (p : ProbeId) (f : Listener → Listener) :
    (s.modListener p f).memory = s.memory := rfl
@[simp] theorem modListener_pending (s : State) (p : ProbeId) (f : Listener → Listener) :
    (s.modListener p f).pending = s.pending := rfl

/-! ## raiseAttention -/

@[simp] theorem raiseAttention_timebase (c : Cause) (s : State) :
    (raiseAttention c s).timebase = s.timebase := rfl
@[simp] theorem raiseAttention_tracks (c : Cause) (s : State) :
    (raiseAttention c s).tracks = s.tracks := rfl
@[simp] theorem raiseAttention_queue (c : Cause) (s : State) :
    (raiseAttention c s).queue = s.queue := rfl
@[simp] theorem raiseAttention_lanes (c : Cause) (s : State) :
    (raiseAttention c s).lanes = s.lanes := rfl
@[simp] theorem raiseAttention_gangs (c : Cause) (s : State) :
    (raiseAttention c s).gangs = s.gangs := rfl
@[simp] theorem raiseAttention_probes (c : Cause) (s : State) :
    (raiseAttention c s).probes = s.probes := rfl
@[simp] theorem raiseAttention_faults (c : Cause) (s : State) :
    (raiseAttention c s).faults = s.faults := rfl
@[simp] theorem raiseAttention_port (c : Cause) (s : State) :
    (raiseAttention c s).port = s.port := rfl
@[simp] theorem raiseAttention_scanner (c : Cause) (s : State) :
    (raiseAttention c s).scanner = s.scanner := rfl
@[simp] theorem raiseAttention_directives (c : Cause) (s : State) :
    (raiseAttention c s).directives = s.directives := rfl
@[simp] theorem raiseAttention_control (c : Cause) (s : State) :
    (raiseAttention c s).control = { s.control with attention := s.control.attention ||| c.bit } := rfl
@[simp] theorem raiseAttention_memory (c : Cause) (s : State) :
    (raiseAttention c s).memory = s.memory := rfl
@[simp] theorem raiseAttention_pending (c : Cause) (s : State) :
    (raiseAttention c s).pending = s.pending := rfl

/-! ## requestTrack -/

@[simp] theorem requestTrack_timebase (t : TrackId) (r : TrackRequest) (s : State) :
    (requestTrack t r s).timebase = s.timebase := rfl
@[simp] theorem requestTrack_tracks (t : TrackId) (r : TrackRequest) (s : State) :
    (requestTrack t r s).tracks = s.tracks := rfl
@[simp] theorem requestTrack_queue (t : TrackId) (r : TrackRequest) (s : State) :
    (requestTrack t r s).queue = s.queue := rfl
@[simp] theorem requestTrack_lanes (t : TrackId) (r : TrackRequest) (s : State) :
    (requestTrack t r s).lanes = s.lanes := rfl
@[simp] theorem requestTrack_gangs (t : TrackId) (r : TrackRequest) (s : State) :
    (requestTrack t r s).gangs = s.gangs := rfl
@[simp] theorem requestTrack_probes (t : TrackId) (r : TrackRequest) (s : State) :
    (requestTrack t r s).probes = s.probes := rfl
@[simp] theorem requestTrack_faults (t : TrackId) (r : TrackRequest) (s : State) :
    (requestTrack t r s).faults = s.faults := rfl
@[simp] theorem requestTrack_port (t : TrackId) (r : TrackRequest) (s : State) :
    (requestTrack t r s).port = { s.port with tracks := s.port.tracks.modify t (· ++ [r]) } := rfl
@[simp] theorem requestTrack_scanner (t : TrackId) (r : TrackRequest) (s : State) :
    (requestTrack t r s).scanner = s.scanner := rfl
@[simp] theorem requestTrack_directives (t : TrackId) (r : TrackRequest) (s : State) :
    (requestTrack t r s).directives = s.directives := rfl
@[simp] theorem requestTrack_control (t : TrackId) (r : TrackRequest) (s : State) :
    (requestTrack t r s).control = s.control := rfl
@[simp] theorem requestTrack_memory (t : TrackId) (r : TrackRequest) (s : State) :
    (requestTrack t r s).memory = s.memory := rfl
@[simp] theorem requestTrack_pending (t : TrackId) (r : TrackRequest) (s : State) :
    (requestTrack t r s).pending = s.pending := rfl

/-! ## requestScanRead -/

@[simp] theorem requestScanRead_timebase (r : ScanRead) (s : State) :
    (requestScanRead r s).timebase = s.timebase := rfl
@[simp] theorem requestScanRead_tracks (r : ScanRead) (s : State) :
    (requestScanRead r s).tracks = s.tracks := rfl
@[simp] theorem requestScanRead_queue (r : ScanRead) (s : State) :
    (requestScanRead r s).queue = s.queue := rfl
@[simp] theorem requestScanRead_lanes (r : ScanRead) (s : State) :
    (requestScanRead r s).lanes = s.lanes := rfl
@[simp] theorem requestScanRead_gangs (r : ScanRead) (s : State) :
    (requestScanRead r s).gangs = s.gangs := rfl
@[simp] theorem requestScanRead_probes (r : ScanRead) (s : State) :
    (requestScanRead r s).probes = s.probes := rfl
@[simp] theorem requestScanRead_faults (r : ScanRead) (s : State) :
    (requestScanRead r s).faults = s.faults := rfl
@[simp] theorem requestScanRead_port (r : ScanRead) (s : State) :
    (requestScanRead r s).port = { s.port with scanRead := some r } := rfl
@[simp] theorem requestScanRead_scanner (r : ScanRead) (s : State) :
    (requestScanRead r s).scanner = s.scanner := rfl
@[simp] theorem requestScanRead_directives (r : ScanRead) (s : State) :
    (requestScanRead r s).directives = s.directives := rfl
@[simp] theorem requestScanRead_control (r : ScanRead) (s : State) :
    (requestScanRead r s).control = s.control := rfl
@[simp] theorem requestScanRead_memory (r : ScanRead) (s : State) :
    (requestScanRead r s).memory = s.memory := rfl
@[simp] theorem requestScanRead_pending (r : ScanRead) (s : State) :
    (requestScanRead r s).pending = s.pending := rfl

/-! ## requestIncident -/

@[simp] theorem requestIncident_timebase (w : IncidentWrite) (s : State) :
    (requestIncident w s).timebase = s.timebase := rfl
@[simp] theorem requestIncident_tracks (w : IncidentWrite) (s : State) :
    (requestIncident w s).tracks = s.tracks := rfl
@[simp] theorem requestIncident_queue (w : IncidentWrite) (s : State) :
    (requestIncident w s).queue = s.queue := rfl
@[simp] theorem requestIncident_lanes (w : IncidentWrite) (s : State) :
    (requestIncident w s).lanes = s.lanes := rfl
@[simp] theorem requestIncident_gangs (w : IncidentWrite) (s : State) :
    (requestIncident w s).gangs = s.gangs := rfl
@[simp] theorem requestIncident_probes (w : IncidentWrite) (s : State) :
    (requestIncident w s).probes = s.probes := rfl
@[simp] theorem requestIncident_faults (w : IncidentWrite) (s : State) :
    (requestIncident w s).faults = s.faults := rfl
@[simp] theorem requestIncident_port (w : IncidentWrite) (s : State) :
    (requestIncident w s).port = { s.port with incidents := s.port.incidents ++ [w] } := rfl
@[simp] theorem requestIncident_scanner (w : IncidentWrite) (s : State) :
    (requestIncident w s).scanner = s.scanner := rfl
@[simp] theorem requestIncident_directives (w : IncidentWrite) (s : State) :
    (requestIncident w s).directives = s.directives := rfl
@[simp] theorem requestIncident_control (w : IncidentWrite) (s : State) :
    (requestIncident w s).control = s.control := rfl
@[simp] theorem requestIncident_memory (w : IncidentWrite) (s : State) :
    (requestIncident w s).memory = s.memory := rfl
@[simp] theorem requestIncident_pending (w : IncidentWrite) (s : State) :
    (requestIncident w s).pending = s.pending := rfl

/-! ## requestSummaryOf -/

@[simp] theorem requestSummaryOf_timebase (w : BucketSummary) (s : State) :
    (requestSummaryOf w s).timebase = s.timebase := rfl
@[simp] theorem requestSummaryOf_tracks (w : BucketSummary) (s : State) :
    (requestSummaryOf w s).tracks = s.tracks := rfl
@[simp] theorem requestSummaryOf_queue (w : BucketSummary) (s : State) :
    (requestSummaryOf w s).queue = s.queue := rfl
@[simp] theorem requestSummaryOf_lanes (w : BucketSummary) (s : State) :
    (requestSummaryOf w s).lanes = s.lanes := rfl
@[simp] theorem requestSummaryOf_gangs (w : BucketSummary) (s : State) :
    (requestSummaryOf w s).gangs = s.gangs := rfl
@[simp] theorem requestSummaryOf_probes (w : BucketSummary) (s : State) :
    (requestSummaryOf w s).probes = s.probes := rfl
@[simp] theorem requestSummaryOf_faults (w : BucketSummary) (s : State) :
    (requestSummaryOf w s).faults = s.faults := rfl
@[simp] theorem requestSummaryOf_port (w : BucketSummary) (s : State) :
    (requestSummaryOf w s).port = { s.port with summaries := s.port.summaries ++ [w] } := rfl
@[simp] theorem requestSummaryOf_scanner (w : BucketSummary) (s : State) :
    (requestSummaryOf w s).scanner = s.scanner := rfl
@[simp] theorem requestSummaryOf_directives (w : BucketSummary) (s : State) :
    (requestSummaryOf w s).directives = s.directives := rfl
@[simp] theorem requestSummaryOf_control (w : BucketSummary) (s : State) :
    (requestSummaryOf w s).control = s.control := rfl
@[simp] theorem requestSummaryOf_memory (w : BucketSummary) (s : State) :
    (requestSummaryOf w s).memory = s.memory := rfl
@[simp] theorem requestSummaryOf_pending (w : BucketSummary) (s : State) :
    (requestSummaryOf w s).pending = s.pending := rfl

/-! ## formResult -/

@[simp] theorem formResult_timebase (n : Word16) (o : DirectiveOutcome) (d : Word32) (s : State) :
    (formResult n o d s).timebase = s.timebase := rfl
@[simp] theorem formResult_tracks (n : Word16) (o : DirectiveOutcome) (d : Word32) (s : State) :
    (formResult n o d s).tracks = s.tracks := rfl
@[simp] theorem formResult_queue (n : Word16) (o : DirectiveOutcome) (d : Word32) (s : State) :
    (formResult n o d s).queue = s.queue := rfl
@[simp] theorem formResult_lanes (n : Word16) (o : DirectiveOutcome) (d : Word32) (s : State) :
    (formResult n o d s).lanes = s.lanes := rfl
@[simp] theorem formResult_gangs (n : Word16) (o : DirectiveOutcome) (d : Word32) (s : State) :
    (formResult n o d s).gangs = s.gangs := rfl
@[simp] theorem formResult_probes (n : Word16) (o : DirectiveOutcome) (d : Word32) (s : State) :
    (formResult n o d s).probes = s.probes := rfl
@[simp] theorem formResult_faults (n : Word16) (o : DirectiveOutcome) (d : Word32) (s : State) :
    (formResult n o d s).faults = s.faults := rfl
@[simp] theorem formResult_port (n : Word16) (o : DirectiveOutcome) (d : Word32) (s : State) :
    (formResult n o d s).port = { s.port with out := s.port.out ++ [.result ⟨n, o, d, s.now⟩] } := rfl
@[simp] theorem formResult_scanner (n : Word16) (o : DirectiveOutcome) (d : Word32) (s : State) :
    (formResult n o d s).scanner = s.scanner := rfl
@[simp] theorem formResult_directives (n : Word16) (o : DirectiveOutcome) (d : Word32) (s : State) :
    (formResult n o d s).directives = s.directives := rfl
@[simp] theorem formResult_control (n : Word16) (o : DirectiveOutcome) (d : Word32) (s : State) :
    (formResult n o d s).control = s.control := rfl
@[simp] theorem formResult_memory (n : Word16) (o : DirectiveOutcome) (d : Word32) (s : State) :
    (formResult n o d s).memory = s.memory := rfl
@[simp] theorem formResult_pending (n : Word16) (o : DirectiveOutcome) (d : Word32) (s : State) :
    (formResult n o d s).pending = s.pending := rfl

/-! ## setTrackState -/

@[simp] theorem setTrackState_timebase (t : TrackId) (st : TrackState) (s : State) :
    (setTrackState t st s).timebase = s.timebase := rfl
@[simp] theorem setTrackState_tracks (t : TrackId) (st : TrackState) (s : State) :
    (setTrackState t st s).tracks = s.tracks.modify t (Track.enter st) := rfl
@[simp] theorem setTrackState_queue (t : TrackId) (st : TrackState) (s : State) :
    (setTrackState t st s).queue = s.queue := rfl
@[simp] theorem setTrackState_lanes (t : TrackId) (st : TrackState) (s : State) :
    (setTrackState t st s).lanes = s.lanes := rfl
@[simp] theorem setTrackState_gangs (t : TrackId) (st : TrackState) (s : State) :
    (setTrackState t st s).gangs = s.gangs := rfl
@[simp] theorem setTrackState_probes (t : TrackId) (st : TrackState) (s : State) :
    (setTrackState t st s).probes = s.probes := rfl
@[simp] theorem setTrackState_faults (t : TrackId) (st : TrackState) (s : State) :
    (setTrackState t st s).faults = s.faults := rfl
@[simp] theorem setTrackState_port (t : TrackId) (st : TrackState) (s : State) :
    (setTrackState t st s).port = s.port := rfl
@[simp] theorem setTrackState_scanner (t : TrackId) (st : TrackState) (s : State) :
    (setTrackState t st s).scanner = s.scanner := rfl
@[simp] theorem setTrackState_directives (t : TrackId) (st : TrackState) (s : State) :
    (setTrackState t st s).directives = s.directives := rfl
@[simp] theorem setTrackState_control (t : TrackId) (st : TrackState) (s : State) :
    (setTrackState t st s).control = s.control := rfl
@[simp] theorem setTrackState_memory (t : TrackId) (st : TrackState) (s : State) :
    (setTrackState t st s).memory = s.memory := rfl
@[simp] theorem setTrackState_pending (t : TrackId) (st : TrackState) (s : State) :
    (setTrackState t st s).pending = s.pending := rfl

/-! ## respond -/

@[simp] theorem respond_timebase (r : Response) (s : State) :
    (respond r s).timebase = s.timebase := rfl
@[simp] theorem respond_tracks (r : Response) (s : State) :
    (respond r s).tracks = s.tracks := rfl
@[simp] theorem respond_queue (r : Response) (s : State) :
    (respond r s).queue = s.queue := rfl
@[simp] theorem respond_lanes (r : Response) (s : State) :
    (respond r s).lanes = s.lanes := rfl
@[simp] theorem respond_gangs (r : Response) (s : State) :
    (respond r s).gangs = s.gangs := rfl
@[simp] theorem respond_probes (r : Response) (s : State) :
    (respond r s).probes = s.probes := rfl
@[simp] theorem respond_faults (r : Response) (s : State) :
    (respond r s).faults = s.faults := rfl
@[simp] theorem respond_port (r : Response) (s : State) :
    (respond r s).port = s.port := rfl
@[simp] theorem respond_scanner (r : Response) (s : State) :
    (respond r s).scanner = s.scanner := rfl
@[simp] theorem respond_directives (r : Response) (s : State) :
    (respond r s).directives = s.directives := rfl
@[simp] theorem respond_control (r : Response) (s : State) :
    (respond r s).control = { s.control with response := some r } := rfl
@[simp] theorem respond_memory (r : Response) (s : State) :
    (respond r s).memory = s.memory := rfl
@[simp] theorem respond_pending (r : Response) (s : State) :
    (respond r s).pending = s.pending := rfl

@[simp] theorem now_eq (s : State) : s.now = s.timebase.count := rfl

end Sys2Proof.Machine.Laws
end

