-- ==== Sys2Proof/Laws/Port.lean ====
section
/-! SUPPORT. The answers of the bus target, the grants of the port and the completions of its access, each said once. -/

namespace Sys2Proof.Machine.Laws

/-! ## Accesses of the register window -/

theorem hostAccess_high (r : Response) (f : State → State) {s : State} (h : s.control.resetLow = false) :
    hostAccess r f s = .next (respond r (f s)) := by
  unfold hostAccess; rw [h]; rfl

theorem hostAccess_low (r : Response) (f : State → State) {s : State} (h : s.control.resetLow = true) :
    hostAccess r f s = .next (respond .error s) := by
  unfold hostAccess; rw [h]; rfl

theorem controlWrite_high (f : State → State) {s : State} (h : s.control.resetLow = false) :
    controlWrite f s = .next (respond .written (servePort (f s))) :=
  hostAccess_high _ _ h

/-! ## Grants -/

theorem serve_stop (n : Nat) {s : State} (h : s.port.inFlight.isSome = true ∨ s.control.resetLow = true) :
    serve n s = s := by
  cases n with
  | zero => rfl
  | succ n => rw [serve, if_pos h]

theorem serve_none (n : Nat) {s : State} (h : nextAccess s.probes.captures s.port = none) : serve n s = s := by
  cases n with
  | zero => rfl
  | succ n => rw [serve, h]; split <;> rfl

/-- An access granted with ANCHOR 0 into the exchange area completes with an error (R129). -/
theorem serve_fails (n : Nat) {s : State} {x : PortAccess} (hi : s.port.inFlight = none) (hl : s.control.resetLow = false)
    (ha : s.control.anchor = 0) (hx : nextAccess s.probes.captures s.port = some x) (hin : x.inArea = true) :
    serve (n + 1) s = serve n (failAccess x (x.address 0) { s with port := removeGranted x s.port }) := by
  rw [serve, if_neg (by simp [hi, hl]), hx]
  simp only [hin, ha]
  exact if_pos ⟨trivial, ha⟩

/-- With ANCHOR 0 an access outside the exchange area is issued like any other (R129). -/
theorem serve_issues (n : Nat) {s : State} {x : PortAccess} (hi : s.port.inFlight = none)
    (hl : s.control.resetLow = false) (hx : nextAccess s.probes.captures s.port = some x) (hout : x.inArea = false) :
    serve (n + 1) s =
      { s with port := { removeGranted x s.port with inFlight := some ⟨x, x.address s.control.anchor, false⟩ } } := by
  rw [serve, if_neg (by simp [hi, hl]), hx]
  simp only [hout]
  rfl

theorem serve_quiet (n : Nat) {s : State} (h : PortQuiet s) : serve n s = s := by
  rcases h with h | h
  · exact serve_stop _ (.inl h)
  · exact serve_none _ h

theorem servePort_low {s : State} (h : s.control.resetLow = true) : servePort s = s := serve_stop _ (.inr h)

theorem servePort_quiet {s : State} (h : PortQuiet s) : servePort s = s := serve_quiet _ h

/-- With ANCHOR other than 0 the port grants once (R131). -/
theorem servePort_anchor {s : State} (h : s.control.anchor ≠ 0) : servePort s = granted s := by
  show serve (511 + 1) s = granted s
  rw [serve, granted]
  split
  · rfl
  · cases hx : nextAccess s.probes.captures s.port with
    | none => rfl
    | some x => exact if_neg fun c => h c.2

/-! ## Completions -/

theorem landAccess_read (x : PortAccess) (a : Address) (o : Bool) (s : State) :
    landAccess ⟨x, a, o⟩ false s = released s := rfl

theorem landAccess_stored (x : PortAccess) (a : Address) (o : Bool) (s : State) :
    landAccess ⟨x, a, o⟩ true s = stored a x.bytes (released s) := rfl

/-- The access in flight is the effect's: it lands, its requester takes the outcome, and the port grants (R130). -/
theorem completeAccess_taken {e : PortAccess → Address → Option (State → State)} {b : Bool} {s : State} {x : PortAccess}
    {a : Address} {f : State → State} {l : PortAccess → Address → State → State} (hf : InFlightIs s x a)
    (he : e x a = some f) :
    completeAccess e b s l = servePort (f (landAccess ⟨x, a, false⟩ b s)) := by
  unfold completeAccess
  rw [hf]
  simp only [he]
  rfl

/-- After a reset the access lands and its requester takes nothing; `l` is what is left of its completion (R133, R149). -/
theorem completeAccess_orphan {e : PortAccess → Address → Option (State → State)} {b : Bool} {s : State} {x : PortAccess}
    {a : Address} {f : State → State} {l : PortAccess → Address → State → State}
    (hf : s.port.inFlight = some ⟨x, a, true⟩) (he : e x a = some f) :
    completeAccess e b s l = servePort (l x a (landAccess ⟨x, a, true⟩ b s)) := by
  unfold completeAccess
  rw [hf]
  simp only [he]
  rfl

/-- No such access is in flight, so there is no event (log 3). -/
theorem completeAccess_other {e : PortAccess → Address → Option (State → State)} {b : Bool} {s : State}
    {l : PortAccess → Address → State → State} (h : ∀ f, s.port.inFlight = some f → e f.access f.address = none) :
    completeAccess e b s l = s := by
  unfold completeAccess
  split
  · next f hf => rw [h f hf]
  · rfl

/-! ## An abandoned read (R133) -/

theorem abandonedRead_data {n : Nat} (d : BitVec n) (x : PortAccess) (a : Address) (s : State) :
    abandonedRead (.data d) x a s = s := by
  cases x <;> first | rfl | exact ite_self _

theorem abandonedRead_low {n : Nat} (r : ReadResult n) (x : PortAccess) (a : Address) {s : State}
    (h : s.control.resetLow = true) : abandonedRead r x a s = s := by
  cases x <;> first | rfl | exact if_pos h

/-- A failed scan read still raises BUS_READ, with the context of what it was issued for (R145). -/
theorem abandonedRead_error {n : Nat} (x : ScanRead) (a : Address) {s : State} (h : s.control.resetLow = false) :
    abandonedRead (.error : ReadResult n) (.scan x) a s = raiseFault .busRead (x.faultContext a s.now) s :=
  if_neg (by simp [h])

end Sys2Proof.Machine.Laws
end

