-- ==== Sys2Proof/Laws/Words.lean ====
section
/-! SUPPORT. The words of the statements: how they read back, how they absorb one another, and how the model's block
modifiers are said in them. -/

namespace Sys2Proof.Machine.Laws

theorem put_put {n : Nat} {α : Type} (v : Table n α) (i : Fin n) (x y : α) : (v.put i x).put i y = v.put i y := by
  apply Table.ext_get
  intro j
  simp only [Table.get_put]
  split <;> rfl

theorem put_get_self {n : Nat} {α : Type} (v : Table n α) (i : Fin n) : v.put i (v.get i) = v := by
  apply Table.ext_get
  intro j
  rw [Table.get_put]
  split
  · next h => rw [h]
  · rfl

variable (s : State) (t u : TrackId) (p : ProbeId) (k k' : Track)

/-! ## Tracks -/

@[simp] theorem withTrack_get_self : (withTrack t k s).tracks.get t = k := by simp [withTrack]

theorem withTrack_get (x : TrackId) :
    (withTrack t k s).tracks.get x = if t = x then k else s.tracks.get x := by simp [withTrack]

@[simp] theorem withTrack_withTrack : withTrack t k (withTrack t k' s) = withTrack t k s := by
  simp only [withTrack, put_put]

@[simp] theorem withTrack_self : withTrack t (s.tracks.get t) s = s := by
  simp only [withTrack, put_get_self]

theorem modTrack_eq (f : Track → Track) : s.modTrack t f = withTrack t (f (s.tracks.get t)) s := rfl

theorem setTrackState_eq (st : TrackState) :
    setTrackState t st s = withTrack t (Track.enter st (s.tracks.get t)) s := rfl

/-- Leaving ACTIVE clears the stall flags (R15). -/
theorem enter_other {st : TrackState} (h : st ≠ .active) :
    Track.enter st k = { k with state := st, stallQuota := false, stallSegments := false, stallPort := false } :=
  if_neg h

theorem enter_active : Track.enter .active k = { k with state := .active } := rfl

@[simp] theorem withTrack_timebase : (withTrack t k s).timebase = s.timebase := rfl
@[simp] theorem withTrack_queue : (withTrack t k s).queue = s.queue := rfl
@[simp] theorem withTrack_lanes : (withTrack t k s).lanes = s.lanes := rfl
@[simp] theorem withTrack_gangs : (withTrack t k s).gangs = s.gangs := rfl
@[simp] theorem withTrack_probes : (withTrack t k s).probes = s.probes := rfl
@[simp] theorem withTrack_faults : (withTrack t k s).faults = s.faults := rfl
@[simp] theorem withTrack_port : (withTrack t k s).port = s.port := rfl
@[simp] theorem withTrack_scanner : (withTrack t k s).scanner = s.scanner := rfl
@[simp] theorem withTrack_directives : (withTrack t k s).directives = s.directives := rfl
@[simp] theorem withTrack_control : (withTrack t k s).control = s.control := rfl
@[simp] theorem withTrack_memory : (withTrack t k s).memory = s.memory := rfl
@[simp] theorem withTrack_pending : (withTrack t k s).pending = s.pending := rfl
@[simp] theorem withTrack_now : (withTrack t k s).now = s.now := rfl

/-! ## Requests -/

theorem requestTrack_eq (r : TrackRequest) : requestTrack t r s = withRequest t r s := rfl

@[simp] theorem withRequest_tracks (r : TrackRequest) : (withRequest t r s).tracks = s.tracks := rfl
@[simp] theorem withRequest_timebase (r : TrackRequest) : (withRequest t r s).timebase = s.timebase := rfl
@[simp] theorem withRequest_now (r : TrackRequest) : (withRequest t r s).now = s.now := rfl
@[simp] theorem withRequest_queue (r : TrackRequest) : (withRequest t r s).queue = s.queue := rfl
@[simp] theorem withRequest_control (r : TrackRequest) : (withRequest t r s).control = s.control := rfl
@[simp] theorem withRequest_faults (r : TrackRequest) : (withRequest t r s).faults = s.faults := rfl
@[simp] theorem withRequest_probes (r : TrackRequest) : (withRequest t r s).probes = s.probes := rfl
@[simp] theorem withRequest_directives (r : TrackRequest) : (withRequest t r s).directives = s.directives := rfl

/-- A request and a change of a track's items do not meet. -/
theorem withTrack_withRequest (r : TrackRequest) :
    withTrack t k (withRequest u r s) = withRequest u r (withTrack t k s) := rfl

/-! ## The port after a completion -/

@[simp] theorem released_tracks : (released s).tracks = s.tracks := rfl
@[simp] theorem released_timebase : (released s).timebase = s.timebase := rfl
@[simp] theorem released_now : (released s).now = s.now := rfl
@[simp] theorem released_queue : (released s).queue = s.queue := rfl
@[simp] theorem released_lanes : (released s).lanes = s.lanes := rfl
@[simp] theorem released_gangs : (released s).gangs = s.gangs := rfl
@[simp] theorem released_probes : (released s).probes = s.probes := rfl
@[simp] theorem released_faults : (released s).faults = s.faults := rfl
@[simp] theorem released_scanner : (released s).scanner = s.scanner := rfl
@[simp] theorem released_directives : (released s).directives = s.directives := rfl
@[simp] theorem released_control : (released s).control = s.control := rfl

/-! ## Windows and listeners -/

theorem modWindow_eq (f : Window → Window) : s.modWindow p f = withWindow p (f (s.probes.windows.get p)) s := rfl

theorem modListener_eq (f : Listener → Listener) :
    s.modListener p f = withListener p (f (s.probes.listeners.get p)) s := rfl

@[simp] theorem withWindow_get_self (w : Window) : (withWindow p w s).probes.windows.get p = w := by simp [withWindow]

@[simp] theorem withWindow_withWindow (w w' : Window) : withWindow p w (withWindow p w' s) = withWindow p w s := by
  simp only [withWindow, put_put]

@[simp] theorem withListener_get_self (l : Listener) : (withListener p l s).probes.listeners.get p = l := by
  simp [withListener]

/-! ## Causes and results -/

theorem raiseAttention_eq (c : Cause) : raiseAttention c s = withCause c s := rfl

theorem formResult_eq (n : Word16) (o : DirectiveOutcome) (d : Word32) : formResult n o d s = withResult n o d s := rfl

/-- States with the same items are equal. -/
theorem state_ext {a b : State} (h1 : a.timebase = b.timebase) (h2 : a.tracks = b.tracks) (h3 : a.queue = b.queue)
    (h4 : a.lanes = b.lanes) (h5 : a.gangs = b.gangs) (h6 : a.probes = b.probes) (h7 : a.faults = b.faults)
    (h8 : a.port = b.port) (h9 : a.scanner = b.scanner) (h10 : a.directives = b.directives)
    (h11 : a.control = b.control) (h12 : a.memory = b.memory) (h13 : a.pending = b.pending) : a = b := by
  cases a
  cases b
  simp_all

end Sys2Proof.Machine.Laws
end

