-- ==== Sys2Proof/Laws/Fetch.lean ====
section
/-! SUPPORT. Fetch requests, passes, pending links and retirement, each said once in the words of the statements. -/

namespace Sys2Proof.Machine.Laws

variable (t : TrackId) (s : State)

/-! ## Requests of the engine -/

theorem requestHeader_eq :
    requestHeader t s =
      withRequest t (.header (s.tracks.get t).segment (s.tracks.get t).pass (s.tracks.get t).readGeneration)
        (withTrack t { s.tracks.get t with stallPort := true } s) := rfl

theorem requestAction_eq :
    requestAction t s =
      withRequest t (.action (s.tracks.get t).segment (s.tracks.get t).cursor (s.tracks.get t).pass
          (s.tracks.get t).readGeneration)
        (withTrack t { s.tracks.get t with stallPort := true } s) := rfl

theorem requestLink_eq (m : Bool) :
    requestLink t m s =
      withRequest t (.link (s.tracks.get t).segment m (s.tracks.get t).pass (s.tracks.get t).readGeneration)
        (withTrack t { s.tracks.get t with stallPort := true } s) := rfl

variable {t s}

/-- Within the quota the next action is read (R21). -/
theorem fetchNext_request (h1 : (s.tracks.get t).state = .active) (h2 : (s.tracks.get t).fetch.isSome = true)
    (h3 : (s.tracks.get t).unstalled = true) (h4 : (s.tracks.get t).queued < (s.tracks.get t).quota) :
    fetchNext t s = requestAction t s := by
  unfold fetchNext
  exact (if_pos ⟨h1, h2, h3⟩).trans (if_pos h4)

/-- At the quota the engine stalls (R15). -/
theorem fetchNext_stall (h1 : (s.tracks.get t).state = .active) (h2 : (s.tracks.get t).fetch.isSome = true)
    (h3 : (s.tracks.get t).unstalled = true) (h4 : ¬(s.tracks.get t).queued < (s.tracks.get t).quota) :
    fetchNext t s = withTrack t { s.tracks.get t with stallQuota := true } s := by
  unfold fetchNext
  exact (if_pos ⟨h1, h2, h3⟩).trans (if_neg h4)

/-- Outside ACTIVE, or stalled, fetch does not go on (R15, R26). -/
theorem resumeFetch_idle (h : ¬((s.tracks.get t).state = .active ∧ (s.tracks.get t).unstalled = true)) :
    resumeFetch t s = s := by
  unfold resumeFetch
  cases hf : (s.tracks.get t).fetch with
  | none => simp only [hf]
  | some f =>
    simp only [hf]
    exact if_neg h

/-- Fetch goes on with the next action or the end of the pass (R21, R28). -/
theorem resumeFetch_on {f : FetchContext} (hf : (s.tracks.get t).fetch = some f)
    (hs : (s.tracks.get t).state = .active) (hu : (s.tracks.get t).unstalled = true) :
    resumeFetch t s = if f.actionCount ≤ (s.tracks.get t).cursor then endPass t s else fetchNext t s := by
  unfold resumeFetch
  simp only [hf]
  exact if_pos ⟨hs, hu⟩

/-! ## Passes -/

theorem startPass_eq {f : FetchContext} (hf : (s.tracks.get t).fetch = some f) :
    startPass t s =
      withTrack t
        { s.tracks.get t with
          pass := (s.tracks.get t).pass + 1
          anchor := add64Held (s.tracks.get t).anchor f.period.toNat
          cursor := 0 } s := by
  unfold startPass
  simp only [modTrack_eq, hf]

/-- The end of a pass: another pass, or the link word (R28). -/
theorem endPass_eq {f : FetchContext} (hf : (s.tracks.get t).fetch = some f) :
    endPass t s =
      let u := withTrack t
        ((s.tracks.get t).modOpen (s.tracks.get t).segment fun r => { r with passes := succ32Sat r.passes }) s
      if f.loop = false ∧ (s.tracks.get t).pass.toNat < f.repeatCount then fetchNext t (startPass t u)
      else requestLink t (f.loop && decide ((s.tracks.get t).pass.toNat < 2 ^ 32 - 1)) u := by
  unfold endPass
  simp only [hf, modTrack_eq, withTrack_get_self, Track.modOpen]

/-! ## Retirement -/

theorem releasePending_none (h : (s.tracks.get t).pendingLink = none) : releasePending t s = s := by
  unfold releasePending
  rw [h]

theorem releasePending_some {y : Address} (h : (s.tracks.get t).pendingLink = some y) :
    releasePending t s =
      withRequest t (.header y (s.tracks.get t).pass (s.tracks.get t).readGeneration)
        (withTrack t
          { s.tracks.get t with segment := y, pendingLink := none, stallSegments := false, stallPort := true } s) := by
  unfold releasePending
  rw [h]
  simp only [requestHeader_eq, modTrack_eq, withTrack_get_self, withTrack_withTrack]

variable (t s)

/-- A retirement, up to the room it leaves to a pending link (R34). -/
theorem retireSegment_eq (cut : Bool) (r : OpenSegment) :
    retireSegment t cut r s =
      releasePending t (withTrack t
        { s.tracks.get t with openList := (s.tracks.get t).openList.filter fun x => !(x.address == r.address) }
        (if r.notifyOnRetire = true ∨ (s.tracks.get t).retireNotifyAll = true then
          withCause .retired (withRequest t (.retire r.address (r.retireRecord cut s.now)) s)
        else withRequest t (.retire r.address (r.retireRecord cut s.now)) s)) := by
  unfold retireSegment
  simp only [modTrack_eq, requestTrack_eq, withRequest_tracks, withTrack_get_self, withTrack_now]
  split <;> rfl

variable {t s}

/-- The record of the segment at an address retires when it is fully fetched with nothing outstanding (R33, R34). -/
theorem retireIfDone_open {a : Address} {r : OpenSegment} (h : (s.tracks.get t).findOpen a = some r) :
    retireIfDone t a s = if r.fullyFetched = true ∧ r.outstanding = 0 then retireSegment t false r s else s := by
  unfold retireIfDone
  simp only [h]

theorem retireIfDone_absent {a : Address} (h : (s.tracks.get t).findOpen a = none) : retireIfDone t a s = s := by
  unfold retireIfDone
  simp only [h]

/-- A retirement changes no time. -/
@[simp] theorem retireSegment_timebase (cut : Bool) (r : OpenSegment) : (retireSegment t cut r s).timebase = s.timebase := by
  rw [retireSegment_eq]
  cases h : (s.tracks.get t).pendingLink with
  | none =>
    rw [releasePending_none (by simpa using h)]
    split <;> rfl
  | some y =>
    rw [releasePending_some (y := y) (by simpa using h)]
    split <;> rfl

@[simp] theorem retireIfDone_timebase (a : Address) : (retireIfDone t a s).timebase = s.timebase := by
  cases h : (s.tracks.get t).findOpen a with
  | none => rw [retireIfDone_absent h]
  | some r =>
    rw [retireIfDone_open h]
    split
    · exact retireSegment_timebase _ _
    · rfl

/-! ## Await outcomes -/

/-- In AWAITING an outcome that is handed over waits beside the track (R103, R104). -/
theorem handOutcome_awaiting {o : AwaitOutcome} (h : (s.tracks.get t).state = .awaiting) :
    handOutcome t o s = withTrack t { s.tracks.get t with outcome := some o } s := if_pos h

/-- In any other state an outcome has no effect (R26). -/
theorem handOutcome_other {o : AwaitOutcome} (h : (s.tracks.get t).state ≠ .awaiting) : handOutcome t o s = s := if_neg h

/-- A timeout under FAULT in AWAITING: the halt that its fault brings finds the timeout as the anchor; without one the outcome
waits beside the track (R26, R104). -/
theorem handTimeoutFault_awaiting {i : Instant} {raise : State → State} (h : (s.tracks.get t).state = .awaiting) :
    handTimeoutFault t i raise s =
      let u := raise (withTrack t { s.tracks.get t with anchor := i, outcome := none } s)
      if (u.tracks.get t).state = .awaiting then
        withTrack t { u.tracks.get t with anchor := (s.tracks.get t).anchor, outcome := some (.timeoutFault i) } u
      else u := by
  unfold handTimeoutFault
  simp only [h, if_true, modTrack_eq]
  split
  · next hu => rw [handOutcome_awaiting (by rw [withTrack_get_self]; exact hu), withTrack_get_self, withTrack_withTrack]
  · rfl

theorem handTimeoutFault_other {i : Instant} {raise : State → State} (h : (s.tracks.get t).state ≠ .awaiting) :
    handTimeoutFault t i raise s = raise s := if_neg h

/-- BUSY in AWAITING: ACTIVE, the fault that comes with it, and fetch (R26, R102). -/
theorem takeBusy_awaiting {raise : State → State} (h : (s.tracks.get t).state = .awaiting) :
    takeBusy t raise s =
      formStatus t (resumeFetch t (raise (withTrack t { s.tracks.get t with state := .active } s))) := by
  unfold takeBusy
  rw [if_pos h, returnFromAwait, setTrackState_eq, enter_active]

theorem takeBusy_other {raise : State → State} (h : (s.tracks.get t).state ≠ .awaiting) : takeBusy t raise s = raise s :=
  if_neg h

theorem takeOutcome_none (h : (s.tracks.get t).outcome = none) : takeOutcome t s = s := by
  unfold takeOutcome
  rw [h]

/-- An outcome that reaches a track outside AWAITING has no effect (R26). -/
theorem takeOutcome_other {o : AwaitOutcome} (h : (s.tracks.get t).outcome = some o) (hs : (s.tracks.get t).state ≠ .awaiting) :
    takeOutcome t s = withTrack t { s.tracks.get t with outcome := none } s := by
  unfold takeOutcome
  simp only [h, modTrack_eq, withTrack_get_self, if_neg hs]

/-- EDGE and TIMEOUT_FAULT: the anchor, ACTIVE, and fetch (R26). -/
theorem takeOutcome_anchor {i : Instant}
    (h : (s.tracks.get t).outcome = some (.edge i) ∨ (s.tracks.get t).outcome = some (.timeoutFault i))
    (hs : (s.tracks.get t).state = .awaiting) :
    takeOutcome t s = formStatus t (resumeFetch t
      (withTrack t { s.tracks.get t with state := .active, anchor := i, outcome := none } s)) := by
  unfold takeOutcome
  rcases h with h | h <;>
    simp only [h, modTrack_eq, withTrack_get_self, hs, if_true, takeAnchor, returnFromAwait, setTrackState_eq, enter_active,
      withTrack_withTrack, id]

/-- TIMEOUT_SKIP: the record is skipped and fully fetched, which can retire it, and the link word is read (R27). -/
theorem takeOutcome_skip (h : (s.tracks.get t).outcome = some .timeoutSkip) (hs : (s.tracks.get t).state = .awaiting) :
    takeOutcome t s = formStatus t (requestLink t false (retireIfDone t (s.tracks.get t).segment (withTrack t
      { s.tracks.get t with
        state := .active, outcome := none
        openList := (s.tracks.get t).openList.map fun r =>
          if r.address = (s.tracks.get t).segment then { r with skipped := true, fullyFetched := true } else r } s))) := by
  unfold takeOutcome
  simp only [h, modTrack_eq, withTrack_get_self, hs, if_true, takeSkip, setTrackState_eq, enter_active, withTrack_withTrack,
    Track.modOpen]

/-- An outcome taken ahead of a directive has no more to do at the end of its tick. -/
theorem takeOutcome_taken {a : Instant} (h : (s.tracks.get t).outcome = some (.taken a)) :
    takeOutcome t s = withTrack t { s.tracks.get t with outcome := none } s := by
  by_cases hs : (s.tracks.get t).state = .awaiting
  · unfold takeOutcome
    simp only [h, modTrack_eq, withTrack_get_self, hs, if_true]
  · exact takeOutcome_other h hs

/-! ## What going on with fetch leaves of a track's state -/

theorem withTrack_state {k : Track} (h : k.state = (s.tracks.get t).state) (x : TrackId) :
    ((withTrack t k s).tracks.get x).state = (s.tracks.get x).state := by
  rw [withTrack_get]
  split
  · next e => rw [h, e]
  · rfl

variable (t s)

theorem requestLink_state (m : Bool) (x : TrackId) : ((requestLink t m s).tracks.get x).state = (s.tracks.get x).state := by
  rw [requestLink_eq, withRequest_tracks]
  exact withTrack_state (by rfl) x

theorem fetchNext_state (x : TrackId) : ((fetchNext t s).tracks.get x).state = (s.tracks.get x).state := by
  unfold fetchNext
  simp only
  split
  · split
    · rw [requestAction_eq, withRequest_tracks]
      exact withTrack_state (by rfl) x
    · exact withTrack_state (by rfl) x
  · rfl

theorem startPass_state (x : TrackId) : ((startPass t s).tracks.get x).state = (s.tracks.get x).state := by
  cases hf : (s.tracks.get t).fetch with
  | none =>
    unfold startPass
    exact withTrack_state (by simp only [hf]) x
  | some f =>
    rw [startPass_eq hf]
    exact withTrack_state (by rfl) x

theorem endPass_state (x : TrackId) : ((endPass t s).tracks.get x).state = (s.tracks.get x).state := by
  cases hf : (s.tracks.get t).fetch with
  | none =>
    unfold endPass
    simp only [hf]
  | some f =>
    rw [endPass_eq hf]
    simp only
    split
    · rw [fetchNext_state, startPass_state]
      exact withTrack_state (by rfl) x
    · rw [requestLink_state]
      exact withTrack_state (by rfl) x

theorem resumeFetch_state (x : TrackId) : ((resumeFetch t s).tracks.get x).state = (s.tracks.get x).state := by
  unfold resumeFetch
  simp only
  split
  · split
    · split
      · exact endPass_state t s x
      · exact fetchNext_state t s x
    · rfl
  · rfl

theorem releasePending_state (x : TrackId) : ((releasePending t s).tracks.get x).state = (s.tracks.get x).state := by
  cases h : (s.tracks.get t).pendingLink with
  | none => rw [releasePending_none h]
  | some y =>
    rw [releasePending_some h, withRequest_tracks]
    exact withTrack_state (by rfl) x

theorem retireIfDone_state (a : Address) (x : TrackId) :
    ((retireIfDone t a s).tracks.get x).state = (s.tracks.get x).state := by
  cases h : (s.tracks.get t).findOpen a with
  | none => rw [retireIfDone_absent h]
  | some r =>
    rw [retireIfDone_open h]
    split
    · rw [retireSegment_eq, releasePending_state]
      split
      · exact withTrack_state (by rfl) x
      · exact withTrack_state (by rfl) x
    · rfl

variable {t s}

/-- An engine that takes an outcome in AWAITING is ACTIVE (R26, R27). -/
theorem takeOutcome_active {o : AwaitOutcome} (h : (s.tracks.get t).outcome = some o) (hw : o.onItsWay = true)
    (hs : (s.tracks.get t).state = .awaiting) : ((takeOutcome t s).tracks.get t).state = .active := by
  have resumed : ∀ i : Instant, ((formStatus t (resumeFetch t (withTrack t
      { s.tracks.get t with state := .active, anchor := i, outcome := none } s))).tracks.get t).state = .active := fun i =>
    (resumeFetch_state t _ t).trans (by rw [withTrack_get_self])
  cases o with
  | edge i =>
    rw [takeOutcome_anchor (.inl h) hs]
    exact resumed i
  | timeoutFault i =>
    rw [takeOutcome_anchor (.inr h) hs]
    exact resumed i
  | timeoutSkip =>
    rw [takeOutcome_skip h hs]
    exact (requestLink_state t _ false t).trans ((retireIfDone_state t _ _ t).trans (by rw [withTrack_get_self]))
  | taken a => cases hw

/-! ## A return ahead of a directive (R160) -/

/-- The return is taken whole, and the anchor before it kept for a disarm request of the tick (R160, R106). -/
theorem returnFirst_returns {o : AwaitOutcome} (h : (s.tracks.get t).outcome = some o) (hw : o.onItsWay = true)
    (hs : (s.tracks.get t).state = .awaiting) :
    returnFirst t s = withTrack t
      { (takeOutcome t s).tracks.get t with outcome := some (.taken (s.tracks.get t).anchor) } (takeOutcome t s) := by
  have hr : (s.tracks.get t).returning = true := by
    unfold Track.returning
    rw [h, hs]
    exact hw
  unfold returnFirst
  exact if_pos hr

/-- After it the track is ACTIVE. -/
theorem returnFirst_active {o : AwaitOutcome} (h : (s.tracks.get t).outcome = some o) (hw : o.onItsWay = true)
    (hs : (s.tracks.get t).state = .awaiting) : ((returnFirst t s).tracks.get t).state = .active := by
  rw [returnFirst_returns h hw hs, withTrack_get_self]
  exact takeOutcome_active h hw hs

/-- Where no outcome is on its way, or the track is not in AWAITING, there is no return. -/
theorem returnFirst_none
    (h : (s.tracks.get t).state ≠ .awaiting ∨ (s.tracks.get t).outcome = none ∨
      ∃ a, (s.tracks.get t).outcome = some (.taken a)) : returnFirst t s = s := by
  have hr : (s.tracks.get t).returning = false := by
    unfold Track.returning
    rcases h with h | h | ⟨a, h⟩
    · rw [beq_false_of_ne h]
      rfl
    · rw [h]
      exact Bool.and_false _
    · rw [h]
      exact Bool.and_false _
  unfold returnFirst
  exact if_neg (by simp only [hr, Bool.false_eq_true, not_false_eq_true])

end Sys2Proof.Machine.Laws
end

