-- ==== Sys2Proof/Laws/Lanes.lean ====
section
/-! SUPPORT. The lane sets and the operations of the Lane Bank, lane by lane. -/

namespace Sys2Proof.Machine.Laws

theorem mem_allLanes (l : LaneId) : l ∈ allLanes := by revert l; decide

theorem laneIn_insert (S : LaneSet) (m l : LaneId) : laneIn (S ||| (1#16 <<< m.val)) l = (laneIn S l || decide (m = l)) := by
  unfold laneIn
  rw [BitVec.getLsbD_or, BitVec.getLsbD_shiftLeft]
  congr 1
  simp only [BitVec.getLsbD_one, Fin.is_lt, decide_true, Bool.true_and]
  have := l.isLt
  have := m.isLt
  by_cases h : m = l
  · subst h; simp
  · have h' : m.val ≠ l.val := fun e => h (Fin.ext e)
    simp only [h, decide_false]
    by_cases h2 : l.val < m.val
    · simp [h2]
    · simp only [h2, decide_false, Bool.not_false, Bool.true_and]
      simp only [decide_eq_false_iff_not, Bool.and_eq_false_iff]
      omega

theorem laneIn_fold (p : LaneId → Bool) (l : LaneId) (L : List LaneId) (S : LaneSet) :
    laneIn (L.foldl (fun S l => if p l then S ||| (1#16 <<< l.val) else S) S) l =
      (laneIn S l || (decide (l ∈ L) && p l)) := by
  induction L generalizing S with
  | nil => simp
  | cons m L ih =>
    rw [List.foldl_cons, ih]
    by_cases hm : m = l
    · subst hm
      by_cases hp : p m <;> simp [hp, laneIn_insert]
    · have hl : l ≠ m := fun e => hm e.symm
      by_cases hp : p m <;> simp [hp, laneIn_insert, hm, hl]

/-- A lane is in the set of a predicate exactly when the predicate holds of it. -/
@[simp] theorem laneIn_laneSetOf (p : LaneId → Bool) (l : LaneId) : laneIn (laneSetOf p) l = p l := by
  unfold laneSetOf
  rw [laneIn_fold]
  simp [mem_allLanes, laneIn]

/-- A lane set is empty exactly when no lane is in it. -/
theorem laneSet_eq_zero_iff (S : LaneSet) : S = 0 ↔ ∀ l, laneIn S l = false := by
  constructor
  · rintro rfl l; simp [laneIn]
  · intro h
    apply BitVec.eq_of_getLsbD_eq
    intro i hi
    simpa [laneIn] using h ⟨i, hi⟩

/-- A lane is in the set of one lane exactly when it is that lane. -/
@[simp] theorem laneIn_single (m l : LaneId) : laneIn (1#16 <<< m.val) l = decide (m = l) := by
  have h := laneIn_insert 0 m l
  simpa [laneIn] using h

@[simp] theorem laneIn_inter (S U : LaneSet) (l : LaneId) : laneIn (S &&& U) l = (laneIn S l && laneIn U l) := by
  simp [laneIn]

@[simp] theorem laneIn_union (S U : LaneSet) (l : LaneId) : laneIn (S ||| U) l = (laneIn S l || laneIn U l) := by
  simp [laneIn]

@[simp] theorem laneIn_zero (l : LaneId) : laneIn 0 l = false := by simp [laneIn]

/-! ## The Lane Bank -/

@[simp] theorem onSet_get (b : LaneBank) (S : LaneSet) (f : Lane → Lane) (l : LaneId) :
    Table.get (LaneBank.onSet b S f) l = if laneIn S l then f (b.get l) else b.get l := by
  simp [LaneBank.onSet]

@[simp] theorem releaseAll_get (b : LaneBank) (t : TrackId) (l : LaneId) :
    Table.get (LaneBank.releaseAll b t) l = if (b.get l).owner = some t then (b.get l).free else b.get l := by
  simp [LaneBank.releaseAll, LaneBank.owns]

@[simp] theorem expireOn_get (b : LaneBank) (S : LaneSet) (now : Instant) (l : LaneId) :
    Table.get (LaneBank.expireOn b S now) l = if laneIn S l then (b.get l).expire now else b.get l := by
  simp [LaneBank.expireOn]

/-- The offending set of a drive or RELEASE is empty exactly when the track owns every lane named (R72, R73). -/
theorem notOwned_eq_zero_iff (b : LaneBank) (t : TrackId) (S : LaneSet) :
    LaneBank.notOwned b t S = 0 ↔ ∀ l, laneIn S l = true → (b.get l).owner = some t := by
  rw [laneSet_eq_zero_iff]
  simp only [LaneBank.notOwned, laneIn_laneSetOf, LaneBank.owns]
  constructor
  · intro h l hl
    have := h l
    simpa [hl] using this
  · intro h l
    by_cases hl : laneIn S l = true
    · simp [hl, h l hl]
    · simp [hl]

/-- The offending set of a CLAIM is empty exactly when no lane named is owned by another track (R70, R71). -/
theorem ownedByOthers_eq_zero_iff (b : LaneBank) (t : TrackId) (S : LaneSet) :
    LaneBank.ownedByOthers b t S = 0 ↔
      ∀ l, laneIn S l = true → (b.get l).owner = none ∨ (b.get l).owner = some t := by
  rw [laneSet_eq_zero_iff]
  simp only [LaneBank.ownedByOthers, laneIn_laneSetOf, LaneBank.owns]
  constructor
  · intro h l hl
    have := h l
    rcases ho : (b.get l).owner with _ | u
    · exact Or.inl rfl
    · right
      simpa [hl, ho] using this
  · intro h l
    by_cases hl : laneIn S l = true
    · rcases h l hl with ho | ho <;> simp [ho]
    · simp [hl]

/-- A drive or RELEASE acts on the whole set or on nothing (R72, R73). -/
theorem ifOwned_eq (b : LaneBank) (t : TrackId) (S : LaneSet) (f : Lane → Lane) :
    LaneBank.ifOwned b t S f = if LaneBank.notOwned b t S = 0 then (b.onSet S f, 0) else (b, LaneBank.notOwned b t S) := rfl

/-- A CLAIM takes the whole set or nothing (R70, R71). -/
theorem takeClaim_eq (b : LaneBank) (t : TrackId) (S : LaneSet) :
    LaneBank.takeClaim b t S =
      if LaneBank.ownedByOthers b t S = 0 then (b.onSet S (Lane.claim t), 0) else (b, LaneBank.ownedByOthers b t S) := rfl

/-! ## R67, lane by lane -/

/-- A lane record in which R67 holds: unowned at its safe level with no return edge, or owned at LOW or HIGH. -/
def LaneFit (k : Lane) : Prop :=
  (k.owner = none → k.level = k.safe ∧ k.returnEdge = none) ∧ (k.owner ≠ none → k.level ≠ .float)

theorem toLevel_ne_float (d : Drive) : d.toLevel ≠ .float := by cases d <;> decide

theorem LaneFit.expire {k : Lane} (h : LaneFit k) (now : Instant) : LaneFit (k.expire now) := by
  unfold Lane.expire
  split
  · split
    · rename_i r hr _
      refine ⟨fun ho => ?_, fun _ => toLevel_ne_float _⟩
      have := (h.1 ho).2
      simp [hr] at this
    · exact h
  · exact h

theorem LaneFit.free (k : Lane) : LaneFit k.free := by
  constructor <;> simp [Lane.free]

theorem LaneFit.claim {k : Lane} (h : LaneFit k) (t : TrackId) : LaneFit (k.claim t) := by
  unfold Lane.claim
  split
  · exact h
  · refine ⟨by simp, fun _ => ?_⟩
    rcases hs : k.safe <;> simp

theorem LaneFit.drive {k : Lane} (ho : k.owner ≠ none) {v : Level} (hv : v ≠ .float) : LaneFit (k.drive v) := by
  constructor <;> simp [Lane.drive, ho, hv]

theorem LaneFit.toggle {k : Lane} (h : LaneFit k) (ho : k.owner ≠ none) : LaneFit k.toggle := by
  have hl := h.2 ho
  constructor
  · simp [Lane.toggle, ho]
  · intro _
    revert hl
    simp only [Lane.toggle]
    cases k.level <;> decide

theorem LaneFit.pulse {k : Lane} (ho : k.owner ≠ none) (p : Drive) (w : Word32) (d : Instant) :
    LaneFit (k.pulse p w d) := by
  constructor <;> simp [Lane.pulse, ho, toLevel_ne_float]

theorem LaneFit.configure {k : Lane} (h : LaneFit k) (ho : k.owner = none) (v : Level) : LaneFit (k.configure v) := by
  refine ⟨fun _ => ⟨rfl, (h.1 ho).2⟩, fun h' => absurd ho h'⟩

/-- Return edges that fall due leave R67 in place (R69). -/
theorem expireOn_fit {b : LaneBank} (S : LaneSet) (now : Instant) (l : LaneId) (h : LaneFit (b.get l)) :
    LaneFit (Table.get (LaneBank.expireOn b S now) l) := by
  rw [expireOn_get]
  split
  · exact h.expire now
  · exact h

/-- A drive or RELEASE leaves R67 in place, if its effect on a lane of the track does. -/
theorem ifOwned_fit {b : LaneBank} {t : TrackId} (S : LaneSet) {f : Lane → Lane}
    (hf : ∀ k, LaneFit k → k.owner = some t → LaneFit (f k)) (l : LaneId) (h : LaneFit (b.get l)) :
    LaneFit (Table.get (LaneBank.ifOwned b t S f).1 l) := by
  rw [ifOwned_eq]
  split
  · rename_i h0
    simp only [onSet_get]
    split
    · rename_i hl
      exact hf _ h ((notOwned_eq_zero_iff b t S).1 h0 l hl)
    · exact h
  · exact h

/-- A CLAIM leaves R67 in place. -/
theorem takeClaim_fit {b : LaneBank} {t : TrackId} (S : LaneSet) (l : LaneId) (h : LaneFit (b.get l)) :
    LaneFit (Table.get (LaneBank.takeClaim b t S).1 l) := by
  rw [takeClaim_eq]
  split
  · simp only [onSet_get]
    split
    · exact h.claim t
    · exact h
  · exact h

/-- A release request leaves R67 in place (R83). -/
theorem releaseAll_fit {b : LaneBank} (t : TrackId) (l : LaneId) (h : LaneFit (b.get l)) :
    LaneFit (Table.get (LaneBank.releaseAll b t) l) := by
  rw [releaseAll_get]
  split
  · exact LaneFit.free _
  · exact h

end Sys2Proof.Machine.Laws
end

