-- ==== Sys2Proof/Laws/Endings.lean ====
section
/-! SUPPORT. How a track ends, said once for each shared operation: the retirements of a cut, the purge, the closing of a
track's windows, the drain's answer, and from them an abort, a halt and the end of a drain. -/

namespace Sys2Proof.Machine.Laws

/-! ## Attention causes -/

/-- A cause that is set stays set when another is raised (R177). -/
theorem withCause_keeps (c d : Cause) (s : State) (h : s.attends d = true) : (withCause c s).attends d = true := by
  simp only [State.attends, withCause, BitVec.getLsbD_or, Bool.or_eq_true] at h ⊢
  exact .inl h

theorem withCause_attends (c : Cause) (s : State) : (withCause c s).attends c = true := by
  simp only [State.attends, withCause, BitVec.getLsbD_or, Bool.or_eq_true]
  exact .inr (by cases c <;> decide)

theorem withCause_other {c d : Cause} (h : d ≠ c) (s : State) : (withCause c s).attends d = s.attends d := by
  simp only [State.attends, withCause, BitVec.getLsbD_or]
  rw [show c.bit.getLsbD d.position = false by revert h; cases c <;> cases d <;> decide, Bool.or_false]

variable {cs : List Cause}

theorem RaisesOnly.of {s u : State} (h : u.control.attention = s.control.attention) : RaisesOnly cs s u := fun c => by
  have e : u.attends c = s.attends c := by
    unfold State.attends
    rw [h]
  exact ⟨fun hc => e.trans hc, fun _ => e⟩

theorem RaisesOnly.trans {s u v : State} (h : RaisesOnly cs s u) (g : RaisesOnly cs u v) : RaisesOnly cs s v := fun c =>
  ⟨fun hc => (g c).1 ((h c).1 hc), fun hc => ((g c).2 hc).trans ((h c).2 hc)⟩

theorem RaisesOnly.mono {ds : List Cause} {s u : State} (h : RaisesOnly cs s u) (hd : ∀ c ∈ cs, c ∈ ds) :
    RaisesOnly ds s u := fun c => ⟨(h c).1, fun hc => (h c).2 fun hm => hc (hd c hm)⟩

theorem withCause_raises {c : Cause} (hc : c ∈ cs) (s : State) : RaisesOnly cs s (withCause c s) := fun d =>
  ⟨withCause_keeps c d s, fun hd => withCause_other (fun e => hd (by rw [e]; exact hc)) s⟩

/-! ## What an operation on one track leaves alone -/

/-- Nothing but the track, the probes, the lanes, the entries, the port, the attention causes of a list and the drain
changes. -/
structure Outside (cs : List Cause) (t : TrackId) (s u : State) : Prop where
  timebase : u.timebase = s.timebase
  tracks : ∀ x, x ≠ t → u.tracks.get x = s.tracks.get x
  gangs : u.gangs = s.gangs
  faults : u.faults = s.faults
  scanner : u.scanner = s.scanner
  control : u.control = { s.control with attention := u.control.attention }
  memory : u.memory = s.memory
  detectors : u.probes.detectors = s.probes.detectors
  requests : ∀ x, x ≠ t → u.port.tracks.get x = s.port.tracks.get x
  causes : RaisesOnly cs s u

theorem Outside.refl (t : TrackId) (s : State) : Outside cs t s s :=
  ⟨rfl, fun _ _ => rfl, rfl, rfl, rfl, rfl, rfl, rfl, fun _ _ => rfl, RaisesOnly.of rfl⟩

theorem Outside.trans {t : TrackId} {s u v : State} (h : Outside cs t s u) (g : Outside cs t u v) : Outside cs t s v where
  timebase := g.timebase.trans h.timebase
  tracks x hx := (g.tracks x hx).trans (h.tracks x hx)
  gangs := g.gangs.trans h.gangs
  faults := g.faults.trans h.faults
  scanner := g.scanner.trans h.scanner
  control := by rw [g.control, h.control]
  memory := g.memory.trans h.memory
  detectors := g.detectors.trans h.detectors
  requests x hx := (g.requests x hx).trans (h.requests x hx)
  causes := RaisesOnly.trans h.causes g.causes

theorem withTrack_outside (t : TrackId) (k : Track) (s : State) : Outside cs t s (withTrack t k s) :=
  ⟨rfl, fun x hx => by rw [withTrack_get, if_neg (Ne.symm hx)], rfl, rfl, rfl, rfl, rfl, rfl, fun _ _ => rfl, RaisesOnly.of rfl⟩

/-! ## Cuts -/

/-- The retirements of a cut touch nothing but the track, its requests and the causes. -/
structure CutOf (t : TrackId) (L : List OpenSegment) (s u : State) : Prop where
  outside : Outside [.retired] t s u
  queue : u.queue = s.queue
  lanes : u.lanes = s.lanes
  probes : u.probes = s.probes
  directives : u.directives = s.directives
  track : u.tracks.get t =
    { s.tracks.get t with openList := (s.tracks.get t).openList.filter fun x => L.all fun r => !(x.address == r.address) }
  requests : u.port.tracks.get t = s.port.tracks.get t ++ L.map fun r =>
    .retire r.address ⟨.cut, r.passes, r.dispatched, r.dropped, s.timebase.count⟩
  port : u.port = { s.port with tracks := u.port.tracks }
  notified : ∀ r ∈ L, r.notifyOnRetire = true ∨ (s.tracks.get t).retireNotifyAll = true → u.attends .retired = true

theorem retireSegment_cut {t : TrackId} {s : State} (h : (s.tracks.get t).pendingLink = none) (r : OpenSegment) :
    CutOf t [r] s (retireSegment t true r s) := by
  rw [retireSegment_eq, releasePending_none (by simpa using h)]
  have hr : r.retireRecord true s.now = ⟨.cut, r.passes, r.dispatched, r.dropped, s.timebase.count⟩ := rfl
  rw [hr]
  split
  · exact
      { outside :=
          ⟨rfl, fun x hx => by rw [withTrack_get, if_neg (Ne.symm hx)]; rfl, rfl, rfl, rfl, rfl, rfl, rfl,
            fun x hx => by simp [withTrack, withCause, withRequest, Ne.symm hx],
            withCause_raises (List.mem_singleton.mpr rfl) s⟩
        queue := rfl, lanes := rfl, probes := rfl, directives := rfl
        track := by simp
        requests := by simp [withTrack, withCause, withRequest]
        port := rfl
        notified := fun _ _ _ => withCause_attends .retired s }
  · next hn =>
    exact
      { outside :=
          ⟨rfl, fun x hx => by rw [withTrack_get, if_neg (Ne.symm hx)]; rfl, rfl, rfl, rfl, rfl, rfl, rfl,
            fun x hx => by simp [withTrack, withRequest, Ne.symm hx], RaisesOnly.of rfl⟩
        queue := rfl, lanes := rfl, probes := rfl, directives := rfl
        track := by simp
        requests := by simp [withTrack, withRequest]
        port := rfl
        notified := fun x hx h => by
          rw [List.mem_singleton.mp hx] at h
          exact absurd h hn }

theorem CutOf.trans {t : TrackId} {L M : List OpenSegment} {s u v : State} (h : CutOf t L s u) (g : CutOf t M u v) :
    CutOf t (L ++ M) s v where
  outside := h.outside.trans g.outside
  queue := g.queue.trans h.queue
  lanes := g.lanes.trans h.lanes
  probes := g.probes.trans h.probes
  directives := g.directives.trans h.directives
  track := by
    rw [g.track, h.track]
    simp only [List.filter_filter, List.all_append]
    congr 1
    apply List.filter_congr
    intro x _
    exact Bool.and_comm _ _
  requests := by
    rw [g.requests, h.requests, h.outside.timebase, List.map_append, List.append_assoc]
  port := by rw [g.port, h.port]
  notified r hr hn := by
    rcases List.mem_append.mp hr with hr | hr
    · exact (g.outside.causes _).1 (h.notified r hr hn)
    · exact g.notified r hr (by rw [h.track]; exact hn)

theorem foldl_cut {t : TrackId} (L : List OpenSegment) {s : State} (h : (s.tracks.get t).pendingLink = none) :
    CutOf t L s (L.foldl (fun s r => retireSegment t true r s) s) := by
  induction L generalizing s with
  | nil =>
    exact ⟨Outside.refl t s, rfl, rfl, rfl, rfl, by simp, by simp, rfl, fun r hr => absurd hr List.not_mem_nil⟩
  | cons r L ih =>
    have h1 := retireSegment_cut h r
    have h2 := ih (s := retireSegment t true r s) (by rw [h1.track]; exact h)
    exact h1.trans h2

/-- Every record of the list retires CUT (R37, R38, R39). -/
theorem cutSegments_spec {t : TrackId} {s : State} (h : (s.tracks.get t).pendingLink = none) :
    CutOf t (s.tracks.get t).openList s (cutSegments t s) ∧ ((cutSegments t s).tracks.get t).openList = [] := by
  have h1 : CutOf t (s.tracks.get t).openList s (cutSegments t s) := foldl_cut _ h
  refine ⟨h1, ?_⟩
  rw [h1.track]
  rw [List.filter_eq_nil_iff]
  intro x hx
  simp only [List.all_eq_true, not_forall]
  exact ⟨x, hx, by simp⟩

/-! ## Purge -/

theorem raisedSat_zero (c : Word32) : raisedSat c 0 = c := by
  apply BitVec.eq_of_toNat_eq
  simp only [raisedSat, Nat.add_zero, BitVec.toNat_ofNat]
  omega

theorem raisedSat_add (c : Word32) (m n : Nat) : raisedSat (raisedSat c m) n = raisedSat c (m + n) := by
  apply BitVec.eq_of_toNat_eq
  simp only [raisedSat, BitVec.toNat_ofNat]
  omega

theorem succ32Sat_eq (c : Word32) : succ32Sat c = raisedSat c 1 := by
  apply BitVec.eq_of_toNat_eq
  unfold succ32Sat
  split
  · next h =>
    subst h
    decide
  · next h =>
    simp only [raisedSat, BitVec.toNat_ofNat]
    have : c.toNat ≠ 2 ^ 32 - 1 := fun e => h (BitVec.eq_of_toNat_eq e)
    have one : BitVec.toNat (1 : Word32) = 1 := rfl
    rw [BitVec.toNat_add, one]
    omega

theorem naming_append (a : Address) (L M : List Entry) : naming a (L ++ M) = naming a L + naming a M := by
  simp [naming]

/-- The counts of a track after its entries `D` are noticed as dispatched and its entries `P` as purged (R33). -/
def noticed (D P : List Entry) (k : Track) : Track :=
  { k with
    queued := k.queued - D.length - P.length
    dispatchedTotal := k.dispatchedTotal + BitVec.ofNat 32 D.length
    droppedTotal := k.droppedTotal + BitVec.ofNat 32 P.length
    openList := k.openList.map fun r =>
      { r with
        outstanding := r.outstanding - naming r.address D - naming r.address P
        dispatched := raisedSat r.dispatched (naming r.address D)
        dropped := raisedSat r.dropped (naming r.address P) } }

theorem noticed_nil (k : Track) : noticed [] [] k = k := by
  cases k
  simp [noticed, naming, raisedSat_zero]

theorem noticed_noticed (D P E Q : List Entry) (k : Track) :
    noticed E Q (noticed D P k) = noticed (D ++ E) (P ++ Q) k := by
  simp only [noticed, List.map_map, List.length_append, naming_append, ← raisedSat_add, BitVec.ofNat_add,
    BitVec.add_assoc]
  congr 1
  · omega
  · apply List.map_congr_left
    intro r _
    simp only [Function.comp_apply]
    congr 1
    omega

/-- The notices of the entries `D` and `P` touch only the counts of the track and its records. -/
structure NoticeOf (t : TrackId) (D P : List Entry) (s u : State) : Prop where
  outside : Outside [.retired] t s u
  lanes : u.lanes = s.lanes
  probes : u.probes = s.probes
  directives : u.directives = s.directives
  port : u.port = s.port
  control : u.control = s.control
  track : u.tracks.get t = noticed D P (s.tracks.get t)

theorem NoticeOf.refl (t : TrackId) (s : State) : NoticeOf t [] [] s s :=
  ⟨Outside.refl t s, rfl, rfl, rfl, rfl, rfl, (noticed_nil _).symm⟩

theorem NoticeOf.trans {t : TrackId} {D P E Q : List Entry} {s u v : State} (h : NoticeOf t D P s u)
    (g : NoticeOf t E Q u v) : NoticeOf t (D ++ E) (P ++ Q) s v :=
  ⟨h.outside.trans g.outside, g.lanes.trans h.lanes, g.probes.trans h.probes, g.directives.trans h.directives,
    g.port.trans h.port, g.control.trans h.control, by rw [g.track, h.track, noticed_noticed]⟩

theorem modQueue_notice (t : TrackId) (f : DueQueue → DueQueue) (s : State) : NoticeOf t [] [] s (s.modQueue f) :=
  ⟨⟨rfl, fun _ _ => rfl, rfl, rfl, rfl, rfl, rfl, rfl, fun _ _ => rfl, RaisesOnly.of rfl⟩, rfl, rfl, rfl, rfl, rfl,
    (noticed_nil _).symm⟩

theorem noticed_purged (e : Entry) (k : Track) :
    noticed [] [e] k =
      { k.modOpen e.segment fun r => { r with outstanding := r.outstanding - 1, dropped := succ32Sat r.dropped } with
        queued := k.queued - 1, droppedTotal := k.droppedTotal + 1 } := by
  have h : ∀ r : OpenSegment,
      { r with
        outstanding := r.outstanding - naming r.address [] - naming r.address [e]
        dispatched := raisedSat r.dispatched (naming r.address [])
        dropped := raisedSat r.dropped (naming r.address [e]) } =
      if r.address = e.segment then { r with outstanding := r.outstanding - 1, dropped := succ32Sat r.dropped }
      else r := by
    intro r
    by_cases h : r.address = e.segment
    · simp [h, naming, raisedSat_zero, succ32Sat_eq]
    · simp [h, Ne.symm h, naming, raisedSat_zero]
  simp only [noticed, h, Track.modOpen, List.length_nil, List.length_singleton, Nat.sub_zero]
  congr 1
  exact BitVec.add_zero _

theorem noticed_dispatched (e : Entry) (k : Track) :
    noticed [e] [] k =
      { k.modOpen e.segment fun r => { r with outstanding := r.outstanding - 1, dispatched := succ32Sat r.dispatched } with
        queued := k.queued - 1, dispatchedTotal := k.dispatchedTotal + 1 } := by
  have h : ∀ r : OpenSegment,
      { r with
        outstanding := r.outstanding - naming r.address [e] - naming r.address []
        dispatched := raisedSat r.dispatched (naming r.address [e])
        dropped := raisedSat r.dropped (naming r.address []) } =
      if r.address = e.segment then { r with outstanding := r.outstanding - 1, dispatched := succ32Sat r.dispatched }
      else r := by
    intro r
    by_cases h : r.address = e.segment
    · simp [h, naming, raisedSat_zero, succ32Sat_eq]
    · simp [h, Ne.symm h, naming, raisedSat_zero]
  simp only [noticed, h, Track.modOpen, List.length_nil, List.length_singleton, Nat.sub_zero]
  congr 1
  exact BitVec.add_zero _

theorem countPurged_notice (t : TrackId) (e : Entry) (s : State) :
    NoticeOf t [] [e] s (countPurged t e.segment s) ∧ (countPurged t e.segment s).queue = s.queue :=
  ⟨⟨withTrack_outside t _ s, rfl, rfl, rfl, rfl, rfl, (withTrack_get_self s t _).trans (noticed_purged e _).symm⟩, rfl⟩

theorem countDispatched_notice (t : TrackId) (e : Entry) (s : State) :
    NoticeOf t [e] [] s (countDispatched t e.segment s) ∧ (countDispatched t e.segment s).queue = s.queue :=
  ⟨⟨withTrack_outside t _ s, rfl, rfl, rfl, rfl, rfl, (withTrack_get_self s t _).trans (noticed_dispatched e _).symm⟩, rfl⟩

theorem foldl_purged (t : TrackId) (L : List Entry) (s : State) :
    NoticeOf t [] L s (L.foldl (fun s e => countPurged t e.segment s) s) ∧
      (L.foldl (fun s e => countPurged t e.segment s) s).queue = s.queue := by
  induction L generalizing s with
  | nil => exact ⟨NoticeOf.refl t s, rfl⟩
  | cons e L ih =>
    have h1 := countPurged_notice t e s
    have h2 := ih (countPurged t e.segment s)
    exact ⟨h1.1.trans h2.1, h2.2.trans h1.2⟩

/-- A purge takes the track's entries from the queue, each with its notice (R60, R33). -/
theorem purgeTrack_spec (t : TrackId) (s : State) :
    NoticeOf t [] (s.entriesOf t) s (purgeTrack t s) ∧
      (purgeTrack t s).queue = { s.queue with entries := s.queue.entries.filter fun e => !(e.track == t) } := by
  have h := foldl_purged t (s.entriesOf t)
    (s.modQueue fun q => { q with entries := q.entries.filter fun e => !(e.track == t) })
  exact ⟨(modQueue_notice t _ s).trans h.1, h.2⟩

/-- The entry in hand, if it is of the track, is noticed as dispatched (R55). -/
theorem noticeInHand_spec (t : TrackId) (s : State) :
    NoticeOf t (handOf s t) [] s (noticeInHand t s) ∧
      (noticeInHand t s).queue = { s.queue with inHand := s.queue.inHand.filter fun e => !(e.track == t) } := by
  unfold noticeInHand handOf
  cases h : s.queue.inHand with
  | none =>
    exact ⟨NoticeOf.refl t s, by rw [Option.filter_none]; exact congrArg (fun o => { s.queue with inHand := o }) h⟩
  | some e =>
    by_cases ht : e.track = t
    · have n := countDispatched_notice t e (s.modQueue fun q => { q with inHand := none })
      simp only [ht, if_true, Option.toList_some, BEq.rfl, List.filter_cons_of_pos, List.filter_nil, Option.filter_some,
        Bool.not_true, Bool.false_eq_true, if_false]
      exact ⟨(modQueue_notice t _ s).trans n.1, n.2⟩
    · have hb : (e.track == t) = false := beq_eq_false_iff_ne.mpr ht
      simp only [ht, if_false, Option.toList_some, List.filter_cons, hb, Bool.false_eq_true, List.filter_nil,
        Option.filter_some, Bool.not_false, if_true]
      exact ⟨NoticeOf.refl t s, by rw [← h]⟩

/-! ## Windows -/

/-- The record of a window that closes (R94). -/
def closedWindow (c : CloseCause) (time : Instant) (w : Window) : Window :=
  if w.state = .isOpen then { w with state := .closing, cause := some c, closeTime := time } else w

/-- The closing of windows touches only window records and the summaries that wait. -/
structure ClosingOf (s u : State) : Prop where
  timebase : u.timebase = s.timebase
  tracks : u.tracks = s.tracks
  queue : u.queue = s.queue
  lanes : u.lanes = s.lanes
  gangs : u.gangs = s.gangs
  probes : u.probes = { s.probes with windows := u.probes.windows }
  faults : u.faults = s.faults
  port : u.port = { s.port with summaries := u.port.summaries }
  scanner : u.scanner = s.scanner
  directives : u.directives = s.directives
  control : u.control = s.control
  memory : u.memory = s.memory

theorem ClosingOf.refl (s : State) : ClosingOf s s := ⟨rfl, rfl, rfl, rfl, rfl, rfl, rfl, rfl, rfl, rfl, rfl, rfl⟩

theorem ClosingOf.trans {s u v : State} (h : ClosingOf s u) (g : ClosingOf u v) : ClosingOf s v where
  timebase := g.timebase.trans h.timebase
  tracks := g.tracks.trans h.tracks
  queue := g.queue.trans h.queue
  lanes := g.lanes.trans h.lanes
  gangs := g.gangs.trans h.gangs
  probes := by rw [g.probes, h.probes]
  faults := g.faults.trans h.faults
  port := by rw [g.port, h.port]
  scanner := g.scanner.trans h.scanner
  directives := g.directives.trans h.directives
  control := g.control.trans h.control
  memory := g.memory.trans h.memory

theorem requestBucketSummary_spec (p : ProbeId) (s : State) :
    ClosingOf s (requestBucketSummary p s) ∧ (requestBucketSummary p s).probes = s.probes := by
  unfold requestBucketSummary
  cases h : (s.probes.windows.get p).cause with
  | none =>
    simp only [h]
    exact ⟨ClosingOf.refl s, trivial⟩
  | some c =>
    simp only [h]
    exact ⟨⟨rfl, rfl, rfl, rfl, rfl, rfl, rfl, rfl, rfl, rfl, rfl, rfl⟩, rfl⟩

theorem requestBucketSummary_summaries (p : ProbeId) (c : CloseCause) {s : State}
    (h : (s.probes.windows.get p).cause = some c) :
    (requestBucketSummary p s).port.summaries =
      s.port.summaries ++ [⟨p, (s.probes.windows.get p).bucket, (s.probes.windows.get p).header p c⟩] := by
  unfold requestBucketSummary
  simp only [h]
  rfl

theorem closeWindow_open {p : ProbeId} {s : State} (h : (s.probes.windows.get p).state = .isOpen) (c : CloseCause)
    (time : Instant) :
    closeWindow p c time s =
      let u := withWindow p
        { s.probes.windows.get p with state := .closing, cause := some c, closeTime := time } s
      if (s.probes.windows.get p).pending = 0 then requestBucketSummary p u else u := by
  unfold closeWindow
  simp only [h, if_true, modWindow_eq, withWindow_get_self]

theorem closeWindow_other {p : ProbeId} {s : State} (h : (s.probes.windows.get p).state ≠ .isOpen) (c : CloseCause)
    (time : Instant) : closeWindow p c time s = s := if_neg h

/-- One window closes, if it is OPEN (R94). -/
theorem closeWindow_spec (p : ProbeId) (c : CloseCause) (time : Instant) (s : State) :
    ClosingOf s (closeWindow p c time s) ∧
      ∀ q, (closeWindow p c time s).probes.windows.get q =
        if p = q then closedWindow c time (s.probes.windows.get q) else s.probes.windows.get q := by
  by_cases ho : (s.probes.windows.get p).state = .isOpen
  · rw [closeWindow_open ho]
    generalize hu : withWindow p
      { s.probes.windows.get p with state := .closing, cause := some c, closeTime := time } s = u
    have hc : ClosingOf s u := by
      subst hu
      exact ⟨rfl, rfl, rfl, rfl, rfl, rfl, rfl, rfl, rfl, rfl, rfl, rfl⟩
    have hw : ∀ q, u.probes.windows.get q =
        if p = q then closedWindow c time (s.probes.windows.get q) else s.probes.windows.get q := by
      intro q
      subst hu
      simp only [withWindow, Table.get_put]
      split
      · next h =>
        subst h
        exact (if_pos ho).symm
      · rfl
    have hb := requestBucketSummary_spec p u
    simp only
    split
    · exact ⟨hc.trans hb.1, fun q => by rw [hb.2]; exact hw q⟩
    · exact ⟨hc, hw⟩
  · rw [closeWindow_other ho]
    refine ⟨ClosingOf.refl s, fun q => ?_⟩
    split
    · next h =>
      subst h
      exact (if_neg ho).symm
    · rfl

/-- The summary of a window that closes is requested at once when none of its records is pending (R94, R95). -/
theorem closeWindow_summaries (p : ProbeId) (c : CloseCause) (s : State) (f : Window → Bool)
    (h : f (s.probes.windows.get p) = true) :
    (closeWindow p c s.now s).port.summaries = s.port.summaries ++ (summaryAtClose f c s p).toList := by
  unfold summaryAtClose
  by_cases ho : (s.probes.windows.get p).state = .isOpen
  · rw [closeWindow_open ho]
    by_cases hp : (s.probes.windows.get p).pending = 0
    · simp only [hp, ho, h, and_self, if_true, Option.toList_some]
      rw [requestBucketSummary_summaries p c (by rw [withWindow_get_self])]
      simp only [withWindow_get_self]
      rfl
    · simp only [hp, and_false, if_false, Option.toList_none, List.append_nil]
      rfl
  · rw [closeWindow_other ho]
    simp [ho]

/-- What is requested for a window is read from its own record and the time. -/
theorem summaryAtClose_congr {f g : Window → Bool} {c : CloseCause} {s u : State} {p : ProbeId}
    (ht : u.timebase.count = s.timebase.count) (hw : u.probes.windows.get p = s.probes.windows.get p)
    (hf : f (s.probes.windows.get p) = g (s.probes.windows.get p)) : summaryAtClose f c u p = summaryAtClose g c s p := by
  unfold summaryAtClose
  simp only [ht, hw, hf]

theorem summaryAtClose_none {f : Window → Bool} {c : CloseCause} {s : State} {p : ProbeId}
    (h : f (s.probes.windows.get p) = false ∨ (s.probes.windows.get p).state ≠ .isOpen) : summaryAtClose f c s p = none := by
  unfold summaryAtClose
  exact if_neg fun e => h.elim (fun h => by rw [h] at e; exact Bool.false_ne_true e.1) fun h => h e.2.1

/-- A walk over probes that closes the windows a test on their records picks. -/
theorem foldl_close (f : Window → Prop) [DecidablePred f] (c : CloseCause) (L : List ProbeId) (hL : L.Nodup) (s : State) :
    let u := L.foldl (fun s p => if f (s.probes.windows.get p) then closeWindow p c s.now s else s) s
    (ClosingOf s u ∧ ∀ q, u.probes.windows.get q =
      if q ∈ L ∧ f (s.probes.windows.get q) then closedWindow c s.timebase.count (s.probes.windows.get q)
      else s.probes.windows.get q) ∧
    u.port.summaries = s.port.summaries ++ L.filterMap (summaryAtClose (fun w => decide (f w)) c s) := by
  induction L generalizing s with
  | nil => exact ⟨⟨ClosingOf.refl s, fun q => by simp⟩, by simp⟩
  | cons p L ih =>
    rw [List.nodup_cons] at hL
    simp only [List.foldl_cons]
    by_cases hp : f (s.probes.windows.get p)
    · simp only [hp, if_true]
      have h1 := closeWindow_spec p c s.now s
      obtain ⟨h2, h3⟩ := ih hL.2 (closeWindow p c s.now s)
      refine ⟨⟨h1.1.trans h2.1, fun q => ?_⟩, ?_⟩
      · rw [h2.2 q, h1.2 q, h1.1.timebase]
        by_cases hq : p = q
        · subst hq
          simp [hL.1, hp]
        · have : q ≠ p := fun h => hq h.symm
          simp [hq, this]
      · have e : L.filterMap (summaryAtClose (fun w => decide (f w)) c (closeWindow p c s.now s)) =
            L.filterMap (summaryAtClose (fun w => decide (f w)) c s) :=
          List.filterMap_congr fun q hq => summaryAtClose_congr (by rw [h1.1.timebase])
            (by rw [h1.2 q, if_neg fun h : p = q => hL.1 (by rw [h]; exact hq)]) rfl
        rw [h3, e, closeWindow_summaries p c s (fun w => decide (f w)) (decide_eq_true hp), List.append_assoc,
          List.filterMap_cons]
        cases summaryAtClose (fun w => decide (f w)) c s p <;> rfl
    · simp only [hp, if_false]
      obtain ⟨h2, h3⟩ := ih hL.2 s
      refine ⟨⟨h2.1, fun q => ?_⟩, ?_⟩
      · rw [h2.2 q]
        by_cases hq : q = p
        · subst hq
          simp [hL.1, hp]
        · simp [hq]
      · rw [h3, List.filterMap_cons, summaryAtClose_none (.inl (decide_eq_false hp))]

theorem mem_allProbes (p : ProbeId) : p ∈ allProbes := by revert p; decide

theorem allProbes_nodup : allProbes.Nodup := by decide

/-- A close request of a track (R107). -/
theorem closeWindowsOf_spec (t : TrackId) (c : CloseCause) (s : State) :
    (ClosingOf s (closeWindowsOf t c s) ∧ ∀ p, (closeWindowsOf t c s).probes.windows.get p =
      if (s.probes.windows.get p).owner = some t ∧ (s.probes.windows.get p).state = .isOpen then
        { s.probes.windows.get p with state := .closing, cause := some c, closeTime := s.timebase.count }
      else s.probes.windows.get p) ∧
    (closeWindowsOf t c s).port.summaries = s.port.summaries ++ closingSummaries (ownedBy t) c s := by
  obtain ⟨h, hs⟩ := foldl_close (fun w => w.owner = some t) c allProbes allProbes_nodup s
  have e : closeWindowsOf t c s = allProbes.foldl
    (fun s p => if (s.probes.windows.get p).owner = some t then closeWindow p c s.now s else s) s := rfl
  rw [e]
  refine ⟨⟨h.1, fun p => (h.2 p).trans ?_⟩, hs⟩
  unfold closedWindow
  by_cases ho : (s.probes.windows.get p).owner = some t <;> by_cases hs : (s.probes.windows.get p).state = .isOpen <;>
    simp [mem_allProbes, ho, hs]

/-- The close-all request of a device halt (R108): every OPEN window closes, every listener is disarmed. -/
theorem closeAll_spec (s : State) :
    ∃ v T, ClosingOf s v ∧ closeAll s = { v with probes := { v.probes with listeners := T } } ∧
      (∀ p, v.probes.windows.get p = closedWindow .deviceHalt s.timebase.count (s.probes.windows.get p)) ∧
      (∀ p, (T.get p).armed = false) ∧
      v.port.summaries = s.port.summaries ++ closingSummaries (fun _ => true) .deviceHalt s := by
  obtain ⟨h, hs⟩ := foldl_close (fun _ => True) .deviceHalt allProbes allProbes_nodup s
  simp only [if_true, and_true, mem_allProbes, decide_true] at h hs
  refine ⟨_, _, h.1, rfl, h.2, fun p => ?_, hs⟩
  rw [Table.get_tab]
  split
  · rfl
  · next hh => simpa using hh

/-! ## The requests that wait -/

/-- An event that gives the port new summaries, track requests and class 5 writes alone keeps the rest (R131). -/
theorem QueuesKept.of {s u : State} (hc : u.probes.captures = s.probes.captures)
    (hp : u.port =
      { s.port with
        summaries := u.port.summaries, tracks := u.port.tracks, out := u.port.out, lastStatus := u.port.lastStatus })
    (hr : ∀ r, .result r ∈ s.port.out → .result r ∈ u.port.out) : QueuesKept s u :=
  ⟨hc, by rw [hp], by rw [hp], by rw [hp], by rw [hp], hr⟩

theorem QueuesKept.refl (s : State) : QueuesKept s s := ⟨rfl, rfl, rfl, rfl, rfl, fun _ h => h⟩

theorem QueuesKept.trans {s u v : State} (h : QueuesKept s u) (g : QueuesKept u v) : QueuesKept s v :=
  ⟨g.1.trans h.1, g.2.1.trans h.2.1, g.2.2.1.trans h.2.2.1, g.2.2.2.1.trans h.2.2.2.1,
    g.2.2.2.2.1.trans h.2.2.2.2.1, fun r hr => g.2.2.2.2.2 r (h.2.2.2.2.2 r hr)⟩

/-! ## Everything a track held -/

/-- Steps 1 to 5 of an abort and 2 to 5 of a halt (R38, R39). -/
structure StripOf (t : TrackId) (cause : CloseCause) (s u : State) : Prop where
  track : u.tracks.get t = trackEnded t s
  stripped : Stripped t cause s u
  outside : Outside [.retired] t s u
  directives : u.directives = s.directives
  inHand : u.queue.inHand = s.queue.inHand.filter fun e => !(e.track == t)
  purged : PurgedAndCut t s u
  port : u.port = { s.port with summaries := u.port.summaries, tracks := u.port.tracks }

theorem ClosingOf.outside {s u : State} (h : ClosingOf s u) (t : TrackId) : Outside cs t s u :=
  ⟨h.timebase, fun x _ => by rw [h.tracks], h.gangs, h.faults, h.scanner, by rw [h.control], h.memory, by rw [h.probes],
    fun x _ => by rw [h.port], RaisesOnly.of (by rw [h.control])⟩

/-- A disarm request (R106). -/
theorem disarmOf_spec (t : TrackId) (s : State) :
    ∃ T, disarmOf t s = { s with probes := { s.probes with listeners := T } } ∧
      ∀ p, T.get p =
        if (s.probes.listeners.get p).armed = true ∧ (s.probes.listeners.get p).owner = some t then
          { s.probes.listeners.get p with armed := false, owner := none, timeout := none }
        else s.probes.listeners.get p :=
  ⟨_, rfl, fun p => Table.get_tab _ p⟩

/-- A release request (R83). -/
theorem releaseLanes_spec (t : TrackId) (s : State) :
    ∃ B, releaseLanes t s = { s with lanes := B } ∧
      ∀ l, B.get l =
        if (s.lanes.get l).owner = some t then
          { s.lanes.get l with owner := none, level := (s.lanes.get l).safe, returnEdge := none }
        else s.lanes.get l := by
  refine ⟨_, rfl, fun l => ?_⟩
  rw [releaseAll_get]
  simp only
  rfl

/-- Ending a track takes from it all that it held. -/
theorem stripTrack_spec (t : TrackId) (c : CloseCause) (s : State) : StripOf t c s (stripTrack t c s) := by
  unfold stripTrack
  generalize h1 : stopFetch t s = s1
  have o1 : Outside [.retired] t s s1 := by
    subst h1
    exact withTrack_outside t _ s
  have k1 : s1.tracks.get t = { s.tracks.get t with
      stallQuota := false, stallSegments := false, stallPort := false, pendingLink := none
      readGeneration := (s.tracks.get t).readGeneration + 1, outcome := none
      anchor := (s.tracks.get t).disarmedAnchor } := by
    subst h1
    exact withTrack_get_self s t _
  have q1 : s1.queue = s.queue ∧ s1.lanes = s.lanes ∧ s1.probes = s.probes ∧ s1.directives = s.directives ∧
      s1.port = s.port := by
    subst h1
    exact ⟨rfl, rfl, rfl, rfl, rfl⟩
  have n2 := noticeInHand_spec t s1
  generalize noticeInHand t s1 = s2 at n2 ⊢
  have n3 := purgeTrack_spec t s2
  have e3 : s2.entriesOf t = s.entriesOf t := by
    unfold State.entriesOf
    rw [n2.2, q1.1]
  generalize purgeTrack t s2 = s3 at n3 ⊢
  have k3 := (n2.1.trans n3.1).track
  have hand : handOf s1 t = handOf s t := by
    unfold handOf
    rw [q1.1]
  rw [hand, e3, k1, List.append_nil, List.nil_append] at k3
  obtain ⟨c4, e4⟩ := cutSegments_spec (t := t) (s := s3) (by rw [k3]; rfl)
  generalize cutSegments t s3 = s4 at c4 e4 ⊢
  have w5' := closeWindowsOf_spec t c s4
  generalize closeWindowsOf t c s4 = s5 at w5' ⊢
  obtain ⟨w5, m5⟩ := w5'
  have time3 : s3.timebase = s.timebase := by rw [n3.1.outside.timebase, n2.1.outside.timebase, o1.timebase]
  have time : s4.timebase = s.timebase := by rw [c4.outside.timebase, time3]
  have probes : s4.probes = s.probes := by rw [c4.probes, n3.1.probes, n2.1.probes, q1.2.2.1]
  have lanes : s5.lanes = s.lanes := by rw [w5.1.lanes, c4.lanes, n3.1.lanes, n2.1.lanes, q1.2.1]
  have listeners : s5.probes.listeners = s.probes.listeners := by rw [w5.1.probes, probes]
  have outside : Outside [.retired] t s s5 :=
    (((o1.trans n2.1.outside).trans n3.1.outside).trans c4.outside).trans (w5.1.outside t)
  have k5 : s5.tracks.get t = { s3.tracks.get t with openList := [] } := by
    rw [w5.1.tracks, c4.track]
    rw [c4.track] at e4
    exact congrArg (fun l => { s3.tracks.get t with openList := l }) e4
  obtain ⟨T, hd, hT⟩ := disarmOf_spec t s5
  rw [hd]
  obtain ⟨B, hb, hB⟩ := releaseLanes_spec t { s5 with probes := { s5.probes with listeners := T } }
  rw [hb]
  have port3 : s3.port = s.port := by rw [n3.1.port, n2.1.port, q1.2.2.2.2]
  have port5 : s5.port = { s.port with summaries := s5.port.summaries, tracks := s5.port.tracks } := by
    rw [w5.1.port, c4.port, port3]
  refine ⟨?_, ⟨?_, ?_, ?_, ?_, ?_, ?_, ?_, ?_⟩, ?_, ?_, ?_, ⟨?_, ?_⟩, ?_⟩
  · show s5.tracks.get t = _
    rw [k5, k3]
    rfl
  · show s5.queue.entries = _
    rw [w5.1.queue, c4.queue, n3.2]
    simp only [n2.2, q1.1]
  · exact outside.tracks
  · intro l
    rw [← lanes]
    exact hB l
  · intro p
    show s5.probes.windows.get p = _
    rw [w5.2, probes, time]
  · intro p
    rw [← listeners]
    exact hT p
  · show s5.port.summaries = _
    have e : closingSummaries (ownedBy t) c s4 = closingSummaries (ownedBy t) c s :=
      List.filterMap_congr fun p _ => summaryAtClose_congr (by rw [time]) (by rw [probes]) rfl
    rw [m5, e, c4.port, port3]
  · exact outside.requests
  · refine QueuesKept.of ?_ ?_ ?_
    · show s5.probes.captures = _
      rw [w5.1.probes, probes]
    · show s5.port = { s.port with
        summaries := s5.port.summaries, tracks := s5.port.tracks, out := s5.port.out, lastStatus := s5.port.lastStatus }
      rw [port5]
    · intro r hr
      show _ ∈ s5.port.out
      rw [port5]
      exact hr
  · exact ⟨outside.timebase, outside.tracks, outside.gangs, outside.faults, outside.scanner, outside.control,
      outside.memory, outside.detectors, outside.requests, outside.causes⟩
  · show s5.directives = _
    rw [w5.1.directives, c4.directives, n3.1.directives, n2.1.directives, q1.2.2.2.1]
  · show s5.queue.inHand = _
    rw [w5.1.queue, c4.queue, n3.2]
    simp only [n2.2, q1.1]
  · show s5.port.tracks.get t = _
    rw [w5.1.port]
    show s4.port.tracks.get t = _
    rw [c4.requests, port3, k3, time3]
    simp only [noticed, List.map_map]
    rfl
  · rintro ⟨r, hr, hn⟩
    show s5.attends .retired = true
    unfold State.attends
    rw [w5.1.control]
    have n4 := c4.notified
    rw [k3] at n4
    exact n4 _ (List.mem_map_of_mem hr) hn
  · exact port5

/-- What an end takes from a track is read from the track, its entries, its requests, the entry in hand and the count. -/
theorem trackEnded_congr {t : TrackId} {s u : State} (hk : u.tracks.get t = s.tracks.get t)
    (he : u.entriesOf t = s.entriesOf t) (hh : handOf u t = handOf s t) : trackEnded t u = trackEnded t s := by
  unfold trackEnded
  rw [hk, he, hh]

theorem purgedAndCut_congr {t : TrackId} {s s' u : State} (hk : s'.tracks.get t = s.tracks.get t)
    (hc : s'.timebase.count = s.timebase.count) (he : s'.entriesOf t = s.entriesOf t) (hh : handOf s' t = handOf s t)
    (hr : s'.port.tracks.get t = s.port.tracks.get t) (h : PurgedAndCut t s' u) : PurgedAndCut t s u := by
  have hx : cutRecord s' t = cutRecord s t := by
    funext r
    unfold cutRecord
    rw [he, hh, hc]
  unfold PurgedAndCut at h ⊢
  rw [hx, hk, hr] at h
  exact h

/-! ## The answer of a drain -/

/-- The answer of a drain touches the drain and class 5 alone (R157). -/
structure AnswerOf (t : TrackId) (o : DirectiveOutcome) (d : Word32) (s u : State) : Prop where
  timebase : u.timebase = s.timebase
  tracks : u.tracks = s.tracks
  queue : u.queue = s.queue
  lanes : u.lanes = s.lanes
  gangs : u.gangs = s.gangs
  probes : u.probes = s.probes
  faults : u.faults = s.faults
  port : u.port = { s.port with out := u.port.out }
  scanner : u.scanner = s.scanner
  control : u.control = s.control
  memory : u.memory = s.memory
  answered : ∀ q, s.directives.drain = some ⟨q, t⟩ → u.directives.drain = none ∧
    u.port.out.getLast? = some (.result ⟨q, o, d, s.timebase.count⟩)
  other : (∀ q, s.directives.drain ≠ some ⟨q, t⟩) → u.directives = s.directives
  keeps : ∀ w ∈ s.port.out, w ∈ u.port.out

theorem AnswerOf.requests {t : TrackId} {o : DirectiveOutcome} {d : Word32} {s u : State} (h : AnswerOf t o d s u) :
    u.port.tracks = s.port.tracks := by
  rw [h.port]

theorem answerDrain_spec (t : TrackId) (o : DirectiveOutcome) (d : Word32) (s : State) :
    AnswerOf t o d s (answerDrain t o d s) := by
  unfold answerDrain
  split
  · next r hr =>
    split
    · next ht =>
      refine ⟨rfl, rfl, rfl, rfl, rfl, rfl, rfl, rfl, rfl, rfl, rfl, fun q hq => ⟨rfl, ?_⟩, fun h => ?_,
        fun _ => List.mem_append_left _⟩
      · rw [hr] at hq
        cases hq
        exact List.getLast?_concat
      · exact absurd (by rw [hr, ← ht]) (h r.sequence)
    · next ht =>
      refine ⟨rfl, rfl, rfl, rfl, rfl, rfl, rfl, rfl, rfl, rfl, rfl, fun q hq => ?_, fun _ => rfl, fun _ h => h⟩
      rw [hr] at hq
      cases hq
      exact absurd rfl ht
  · next hr =>
    refine ⟨rfl, rfl, rfl, rfl, rfl, rfl, rfl, rfl, rfl, rfl, rfl, fun q hq => ?_, fun _ => rfl, fun _ h => h⟩
    rw [hr] at hq
    cases hq

/-- The forming of a status write takes no result away (R143). -/
theorem formStatus_keeps_result (t : TrackId) {s : State} {r : DirectiveResult} (h : .result r ∈ s.port.out) :
    .result r ∈ (formStatus t s).port.out := by
  unfold formStatus State.modPort
  simp only
  split
  · exact List.mem_map.mpr ⟨_, h, rfl⟩
  · exact List.mem_append_left _ h

/-- The forming of a summary changes only what class 5 and its image hold (R142). -/
theorem formSummary_port (s : State) :
    (formSummary s).port =
      { s.port with
        out := (formSummary s).port.out, lastSummary := (formSummary s).port.lastSummary
        generation := (formSummary s).port.generation } := by
  unfold formSummary State.modPort
  simp only
  split <;> rfl

/-- The forming of a summary takes no status write away (R142). -/
theorem formSummary_status {s : State} {t : TrackId} {i : StatusImage} (h : .status t i ∈ s.port.out) :
    .status t i ∈ (formSummary s).port.out := by
  unfold formSummary State.modPort
  simp only
  split
  · exact List.mem_map.mpr ⟨_, h, rfl⟩
  · exact List.mem_append_left _ h

/-- The forming of a summary takes no result away, and its image is written (R142). -/
theorem formSummary_spec (s : State) :
    (∀ r, .result r ∈ s.port.out → .result r ∈ (formSummary s).port.out) ∧
      (∃ g, .summary g s.timebase.count (summaryImage s) ∈ (formSummary s).port.out) ∧
      (formSummary s).port.lastSummary = some (summaryImage s) := by
  unfold formSummary State.modPort
  simp only
  split
  · next h =>
    refine ⟨fun r hr => List.mem_map.mpr ⟨_, hr, rfl⟩, ?_, rfl⟩
    obtain ⟨w, hw, hs⟩ := List.any_eq_true.mp h
    cases w with
    | summary g n i => exact ⟨g, List.mem_map.mpr ⟨_, hw, rfl⟩⟩
    | result r => cases hs
    | status t i => cases hs
  · exact ⟨fun r hr => List.mem_append_left _ hr, ⟨_, List.mem_append_right _ (List.mem_singleton.mpr rfl)⟩, rfl⟩

/-- The forming of a status write leaves a write of the track in class 5 and its image, and those of other tracks (R143). -/
theorem formStatus_status (t : TrackId) (s : State) :
    StatusFormed t (formStatus t s) ∧ ∀ x, x ≠ t → StatusFormed x s → StatusFormed x (formStatus t s) := by
  have hk : (formStatus t s).tracks = s.tracks := rfl
  have hl : (formStatus t s).port.lastStatus = s.port.lastStatus.put t (some (statusImage (s.tracks.get t))) := rfl
  unfold StatusFormed
  rw [hk, hl]
  refine ⟨⟨(Table.get_put _ _ _ _).trans (if_pos rfl), ?_⟩, fun x hx hs => ⟨?_, ?_⟩⟩
  · unfold formStatus State.modPort
    simp only
    split
    · next h =>
      obtain ⟨w, hw, hm⟩ := List.any_eq_true.mp h
      cases w with
      | status u j =>
        have hu : u = t := by simpa [OutWrite.isStatusOf] using hm
        exact List.mem_map.mpr ⟨_, hw, by simp [OutWrite.refreshStatus, hu]⟩
      | result r => cases hm
      | summary g n i => cases hm
    · exact List.mem_append_right _ (List.mem_singleton.mpr rfl)
  · exact ((Table.get_put _ _ _ _).trans (if_neg (Ne.symm hx))).trans hs.1
  · unfold formStatus State.modPort
    simp only
    split
    · exact List.mem_map.mpr ⟨_, hs.2, by simp [OutWrite.refreshStatus, hx]⟩
    · exact List.mem_append_left _ hs.2

/-- A status write stays formed while the track, its last image and the writes that wait do. -/
theorem StatusFormed.kept {t : TrackId} {s u : State} (h : StatusFormed t s) (hk : u.tracks.get t = s.tracks.get t)
    (hl : u.port.lastStatus.get t = s.port.lastStatus.get t)
    (ho : ∀ i, .status t i ∈ s.port.out → .status t i ∈ u.port.out) : StatusFormed t u := by
  unfold StatusFormed at h ⊢
  rw [hk, hl]
  exact ⟨h.1, ho _ h.2⟩

/-- A status write touches the port alone, and the results that wait stay (R143). -/
theorem formStatus_spec (t : TrackId) (s : State) :
    ∃ P, formStatus t s = { s with port := P } ∧
      P = { s.port with out := P.out, lastStatus := P.lastStatus } ∧ ∀ r, .result r ∈ s.port.out → .result r ∈ P.out :=
  ⟨_, rfl, rfl, fun _ hr => formStatus_keeps_result t hr⟩

end Sys2Proof.Machine.Laws
end

