-- ==== Sys2Proof/Laws/Queue.lean ====
section
/-! SUPPORT. The order of the Due Queue and its freedom from collisions: the collision set, and a new entry in its place. -/

namespace Sys2Proof.Machine.Laws

/-- The bits of the collision set (R51, R52). -/
theorem collisionFold_bit (es : List Entry) (d : Instant) (S C : LaneSet) (i : Nat) :
    (es.foldl (fun C e => if e.action.isDriving = true ∧ e.due = d then C ||| (e.lanes &&& S) else C) C).getLsbD i = true ↔
      C.getLsbD i = true ∨
        ∃ e ∈ es, e.action.isDriving = true ∧ e.due = d ∧ e.lanes.getLsbD i = true ∧ S.getLsbD i = true := by
  induction es generalizing C with
  | nil => simp
  | cons e es ih =>
    rw [List.foldl_cons, ih]
    split
    · next h =>
      simp only [BitVec.getLsbD_or, BitVec.getLsbD_and, Bool.or_eq_true, Bool.and_eq_true, List.exists_mem_cons_iff]
      constructor
      · rintro ((h1 | h1) | h1)
        · exact .inl h1
        · exact .inr (.inl ⟨h.1, h.2, h1.1, h1.2⟩)
        · exact .inr (.inr h1)
      · rintro (h1 | h1 | h1)
        · exact .inl (.inl h1)
        · exact .inl (.inr ⟨h1.2.2.1, h1.2.2.2⟩)
        · exact .inr h1
    · next h =>
      rw [List.exists_mem_cons_iff]
      constructor
      · rintro (h1 | h1)
        · exact .inl h1
        · exact .inr (.inr h1)
      · rintro (h1 | h1 | h1)
        · exact .inl h1
        · exact absurd ⟨h1.1, h1.2.1⟩ h
        · exact .inr h1

theorem collisionSet_bit (es : List Entry) (d : Instant) (S : LaneSet) (i : Nat) :
    (collisionSet es d S).getLsbD i = true ↔
      ∃ e ∈ es, e.action.isDriving = true ∧ e.due = d ∧ e.lanes.getLsbD i = true ∧ S.getLsbD i = true := by
  unfold collisionSet
  rw [collisionFold_bit]
  simp

/-- No collision means no same-time driving entry on a common lane (R51). -/
theorem collisionSet_eq_zero (es : List Entry) (d : Instant) (S : LaneSet) :
    collisionSet es d S = 0 ↔ ∀ e ∈ es, e.action.isDriving = true → e.due = d → e.lanes &&& S = 0 := by
  constructor
  · intro h e he hd hdue
    apply BitVec.eq_of_getLsbD_eq
    intro i hi
    by_contra hc
    have : (collisionSet es d S).getLsbD i = true := by
      rw [collisionSet_bit]
      refine ⟨e, he, hd, hdue, ?_⟩
      simpa using hc
    rw [h] at this
    simp at this
  · intro h
    apply BitVec.eq_of_getLsbD_eq
    intro i hi
    by_contra hc
    have hc : (collisionSet es d S).getLsbD i = true := by simpa using hc
    obtain ⟨e, he, hd, hdue, h1, h2⟩ := (collisionSet_bit _ _ _ _).1 hc
    have := congrArg (fun x => x.getLsbD i) (h e he hd hdue)
    simp [h1, h2] at this

theorem insertEntry_mem (e : Entry) (es : List Entry) : ∀ y ∈ insertEntry e es, y = e ∨ y ∈ es := by
  induction es with
  | nil => simp [insertEntry]
  | cons x xs ih =>
    unfold insertEntry
    split
    · intro y hy
      exact List.mem_cons.1 hy
    · intro y hy
      rcases List.mem_cons.1 hy with rfl | hy
      · exact .inr List.mem_cons_self
      · exact (ih y hy).imp_right (List.mem_cons_of_mem _)

/-- A new entry that collides with none keeps the order and the freedom from collisions (R45, R51). -/
theorem insertEntry_pairwise (e : Entry) (es : List Entry) (hp : es.Pairwise EntryBefore)
    (hc : ∀ x ∈ es, e.action.isDriving = true → x.action.isDriving = true → x.due = e.due → x.lanes &&& e.lanes = 0) :
    (insertEntry e es).Pairwise EntryBefore := by
  induction es with
  | nil => simp [insertEntry]
  | cons x xs ih =>
    rw [List.pairwise_cons] at hp
    have ih1 := ih hp.2 (fun y hy => hc y (List.mem_cons_of_mem _ hy))
    unfold insertEntry
    split
    · next hlt =>
      rw [List.pairwise_cons]
      refine ⟨?_, List.pairwise_cons.2 hp⟩
      intro y hy
      have hxy : x.due ≤ y.due := by
        rcases List.mem_cons.1 hy with rfl | hy
        · exact BitVec.le_refl _
        · exact (hp.1 y hy).1
      have hlt' : e.due < y.due := by
        rw [BitVec.lt_def] at *
        rw [BitVec.le_def] at hxy
        omega
      exact ⟨BitVec.le_of_lt hlt', fun _ _ heq => absurd (heq ▸ hlt') (BitVec.lt_irrefl _)⟩
    · next hlt =>
      rw [List.pairwise_cons]
      refine ⟨?_, ih1⟩
      intro y hy
      rcases insertEntry_mem e xs y hy with rfl | hy
      · exact ⟨BitVec.not_lt.1 hlt, fun hx he heq => hc x List.mem_cons_self he hx heq⟩
      · exact hp.1 y hy

/-- In an ordered queue a new entry stands after every entry due no later and before the others (R45). -/
theorem insertEntry_place (e : Entry) (es : List Entry) (hp : es.Pairwise EntryBefore) :
    insertEntry e es =
      es.filter (fun x => decide (x.due ≤ e.due)) ++ e :: es.filter (fun x => decide (e.due < x.due)) := by
  induction es with
  | nil => rfl
  | cons x xs ih =>
    rw [List.pairwise_cons] at hp
    unfold insertEntry
    split
    · next hlt =>
      have h1 : (x :: xs).filter (fun x => decide (x.due ≤ e.due)) = [] := by
        rw [List.filter_eq_nil_iff]
        intro y hy
        have hxy : x.due ≤ y.due := by
          rcases List.mem_cons.1 hy with rfl | hy
          · exact BitVec.le_refl _
          · exact (hp.1 y hy).1
        rw [BitVec.lt_def] at hlt
        rw [BitVec.le_def] at hxy
        simp [BitVec.le_def]
        omega
      have h2 : (x :: xs).filter (fun x => decide (e.due < x.due)) = x :: xs := by
        rw [List.filter_eq_self]
        intro y hy
        have hxy : x.due ≤ y.due := by
          rcases List.mem_cons.1 hy with rfl | hy
          · exact BitVec.le_refl _
          · exact (hp.1 y hy).1
        rw [BitVec.lt_def] at hlt
        rw [BitVec.le_def] at hxy
        simp [BitVec.lt_def]
        omega
      rw [h1, h2]
      rfl
    · next hlt =>
      rw [ih hp.2, List.filter_cons_of_pos (by simpa using BitVec.not_lt.1 hlt), List.filter_cons_of_neg (by simpa using hlt)]
      rfl

end Sys2Proof.Machine.Laws
end

