-- ==== Sys2Proof/Laws/Moves.lean ====
section
/-! SUPPORT. What one event can do to the state, said once: the primitive changes (`Move`), and for every operation that
the state it answers is reached from its argument by primitive changes alone. An invariant is proved by checking it on the
primitive changes. -/

namespace Sys2Proof.Machine.Laws

open Relation

/-- Where a primitive change can happen: inside a hand-off or any other part of an event, in an event as a whole (which
can insert into the Due Queue besides), or as what a command itself does. -/
inductive Scope where
  | part
  | event
  | command
deriving DecidableEq, Repr

/-- The primitive changes. Each says which item changes, and the condition under which the device makes the change. Those
that are not a command's own leave the count, F, the latch, the gangs, the policy table, the detectors' references, ANCHOR,
the enables, memory and the queue of commands alone. -/
inductive Move : Scope → State → State → Prop
  | boundary {w : Scope} (s : State) (b : Bool) : Move w s { s with timebase := { s.timebase with boundary := b } }
  | tracks {w : Scope} (s : State) (v : Table 8 Track) : Move w s { s with tracks := v }
  | inHand {w : Scope} (s : State) (e : Option Entry) : Move w s { s with queue := { s.queue with inHand := e } }
  | mark {w : Scope} (s : State) (tag : Word32) (t : Instant) :
      Move w s { s with queue := { s.queue with markTag := tag, markTime := t } }
  | dropEntries {w : Scope} (s : State) (p : Entry → Bool) :
      Move w s { s with queue := { s.queue with entries := s.queue.entries.filter p } }
  | takeEntry {w : Scope} (s : State) : Move w s { s with queue := { s.queue with entries := s.queue.entries.tail } }
  | enqueue {w : Scope} (hw : w ≠ .part) (s : State) (e : Entry) (n : Word64) (hn : s.now < e.due)
      (h : e.action.isDriving = true → collisionSet s.queue.entries e.due e.lanes = 0) :
      Move w s { s with queue := { s.queue with entries := insertEntry e s.queue.entries, insertion := n } }
  | lanes {w : Scope} (s : State) (v : Table 16 Lane) (h : ∀ l, LaneFit (s.lanes.get l) → LaneFit (v.get l)) :
      Move w s { s with lanes := v }
  | edges {w : Scope} (s : State) (v : Table 16 Detector)
      (h : ∀ p, (v.get p).reference = (s.probes.detectors.get p).reference) :
      Move w s { s with probes := { s.probes with detectors := v } }
  | windows {w : Scope} (s : State) (v : Table 16 Window) : Move w s { s with probes := { s.probes with windows := v } }
  | listeners {w : Scope} (s : State) (v : Table 16 Listener) :
      Move w s { s with probes := { s.probes with listeners := v } }
  | capture {w : Scope} (s : State) (r : CaptureRecord) (h : s.probes.captures.length < Config.captureCapacity) :
      Move w s { s with probes := { s.probes with captures := s.probes.captures ++ [r] } }
  | captured {w : Scope} (s : State) : Move w s { s with probes := { s.probes with captures := s.probes.captures.tail } }
  | record {w : Scope} (s : State) (k : FaultKind) (cls : FaultClass) (c : FaultContext) : Move w s (recordFault k cls c s)
  | slots {w : Scope} (s : State) (v : Table 32 SlotState) : Move w s { s with faults := { s.faults with slots := v } }
  | lost {w : Scope} (s : State) (v : Word64) : Move w s { s with faults := { s.faults with lost := v } }
  | masked {w : Scope} (s : State) (v : Word32) : Move w s { s with faults := { s.faults with masked := v } }
  | port {w : Scope} (s : State) (v : Port) : Move w s { s with port := v }
  | scanner {w : Scope} (s : State) (v : Scanner) : Move w s { s with scanner := v }
  | directives {w : Scope} (s : State) (v : DirectiveUnit) : Move w s { s with directives := v }
  | halt {w : Scope} (s : State) (h : s.control.device = .running) :
      Move w s { s with control := { s.control with device := .halted } }
  | attention {w : Scope} (s : State) (a : BitVec 7) : Move w s { s with control := { s.control with attention := a } }
  | latch (s : State) (v : Word32) : Move .command s { s with timebase := { s.timebase with timeHi := v } }
  | count (s : State) (v : Instant) : Move .command s { s with timebase := { s.timebase with count := v } }
  | frame (s : State) (n : Nat) (h : 12 ≤ n ∧ n ≤ 24) : Move .command s { s with timebase := { s.timebase with frame := n } }
  | gangs (s : State) (v : Table 6 LaneSet) : Move .command s { s with gangs := v }
  | detectors (s : State) (v : Table 16 Detector) : Move .command s { s with probes := { s.probes with detectors := v } }
  | acknowledge (s : State) (kinds : BitVec 12) : Move .command s { s with faults := acknowledge kinds s.faults }
  | policy (s : State) (v : Table 12 PolicyEntry) : Move .command s { s with faults := { s.faults with policy := v } }
  | device (s : State) (d : DeviceState)
      (h : d = .stopped ∨ s.control.device ≠ .stopped ∨ (s.control.anchor ≠ 0 ∧ s.control.resetLow = false)) :
      Move .command s { s with control := { s.control with device := d } }
  | runRefused (s : State) (b : Bool) : Move .command s { s with control := { s.control with runRefused := b } }
  | enable (s : State) (a : BitVec 7) : Move .command s { s with control := { s.control with enable := a } }
  | response (s : State) (r : Option Response) : Move .command s { s with control := { s.control with response := r } }
  | anchor (s : State) (a : Address) (hs : s.control.device = .stopped)
      (h : s.control.anchor.setWidth 11 = 0#11 → a.setWidth 11 = 0#11) :
      Move .command s { s with control := { s.control with anchor := a } }
  | resetLine (s : State) (b : Bool) (h : b = true → s.control.device = .stopped) :
      Move .command s { s with control := { s.control with resetLow := b } }
  | reset (s : State) (a : Address) (e : BitVec 7) (h : a = s.control.anchor ∨ a = 0) : Move .command s (resetBlocks a e s)
  | store (s : State) (a : Address) (bs : List Byte) : Move .command s { s with memory := Memory.store s.memory a bs }

/-- Reached by primitive changes. -/
abbrev Moves (w : Scope) : State → State → Prop := ReflTransGen (Move w)

variable {w : Scope} {s₀ s : State}

theorem Moves.step {t : State} (h : Moves w s₀ s) (m : Move w s t) : Moves w s₀ t := h.tail m

/-- A fold of an operation that makes primitive changes. -/
theorem foldl_moves {α : Type} (f : State → α → State) (hf : ∀ s a, Moves w s₀ s → Moves w s₀ (f s a)) (l : List α)
    (h : Moves w s₀ s) : Moves w s₀ (l.foldl f s) := by
  induction l generalizing s with
  | nil => exact h
  | cons a l ih => exact ih (hf s a h)

/-! ## One block changed -/

theorem modTrack_moves (t : TrackId) (f : Track → Track) (h : Moves w s₀ s) : Moves w s₀ (s.modTrack t f) :=
  h.step (.tracks s _)

theorem modPort_moves (f : Port → Port) (h : Moves w s₀ s) : Moves w s₀ (s.modPort f) := h.step (.port s _)

theorem modWindow_moves (p : ProbeId) (f : Window → Window) (h : Moves w s₀ s) : Moves w s₀ (s.modWindow p f) :=
  h.step (.windows s _)

theorem modListener_moves (p : ProbeId) (f : Listener → Listener) (h : Moves w s₀ s) : Moves w s₀ (s.modListener p f) :=
  h.step (.listeners s _)

theorem raiseAttention_moves (c : Cause) (h : Moves w s₀ s) : Moves w s₀ (raiseAttention c s) := h.step (.attention s _)

theorem requestTrack_moves (t : TrackId) (r : TrackRequest) (h : Moves w s₀ s) : Moves w s₀ (requestTrack t r s) :=
  modPort_moves _ h

theorem requestScanRead_moves (r : ScanRead) (h : Moves w s₀ s) : Moves w s₀ (requestScanRead r s) := modPort_moves _ h

theorem requestIncident_moves (x : IncidentWrite) (h : Moves w s₀ s) : Moves w s₀ (requestIncident x s) := modPort_moves _ h

theorem requestSummaryOf_moves (x : BucketSummary) (h : Moves w s₀ s) : Moves w s₀ (requestSummaryOf x s) :=
  modPort_moves _ h

theorem formSummary_moves (h : Moves w s₀ s) : Moves w s₀ (formSummary s) := h.step (.port s _)

theorem formStatus_moves (t : TrackId) (h : Moves w s₀ s) : Moves w s₀ (formStatus t s) := h.step (.port s _)

theorem formResult_moves (n : Word16) (o : DirectiveOutcome) (d : Word32) (h : Moves w s₀ s) :
    Moves w s₀ (formResult n o d s) := modPort_moves _ h

theorem setTrackState_moves (t : TrackId) (st : TrackState) (h : Moves w s₀ s) : Moves w s₀ (setTrackState t st s) :=
  modTrack_moves _ _ h

theorem answerDrain_moves (t : TrackId) (o : DirectiveOutcome) (d : Word32) (h : Moves w s₀ s) :
    Moves w s₀ (answerDrain t o d s) := by
  unfold answerDrain
  split
  · split
    · exact formResult_moves _ _ _ (h.step (.directives s _))
    · exact h
  · exact h

/-! ## Track engines -/

theorem releaseLanes_moves (t : TrackId) (h : Moves w s₀ s) : Moves w s₀ (releaseLanes t s) :=
  h.step (.lanes s _ fun l hl => releaseAll_fit t l hl)

theorem requestHeader_moves (t : TrackId) (h : Moves w s₀ s) : Moves w s₀ (requestHeader t s) :=
  modTrack_moves _ _ (requestTrack_moves _ _ h)

theorem requestAction_moves (t : TrackId) (h : Moves w s₀ s) : Moves w s₀ (requestAction t s) :=
  modTrack_moves _ _ (requestTrack_moves _ _ h)

theorem requestLink_moves (t : TrackId) (m : Bool) (h : Moves w s₀ s) : Moves w s₀ (requestLink t m s) :=
  modTrack_moves _ _ (requestTrack_moves _ _ h)

theorem fetchNext_moves (t : TrackId) (h : Moves w s₀ s) : Moves w s₀ (fetchNext t s) := by
  simp only [fetchNext]
  split
  · split
    · exact requestAction_moves t h
    · exact modTrack_moves _ _ h
  · exact h

theorem beginEntry_moves (t : TrackId) (a b : Address) (h : Moves w s₀ s) : Moves w s₀ (beginEntry t a b s) := by
  simp only [beginEntry]
  split
  · exact requestHeader_moves t (modTrack_moves _ _ (modTrack_moves _ _ h))
  · exact modTrack_moves _ _ (modTrack_moves _ _ h)

theorem releasePending_moves (t : TrackId) (h : Moves w s₀ s) : Moves w s₀ (releasePending t s) := by
  unfold releasePending
  split
  · exact requestHeader_moves t (modTrack_moves _ _ h)
  · exact h

theorem retireSegment_moves (t : TrackId) (cut : Bool) (r : OpenSegment) (h : Moves w s₀ s) :
    Moves w s₀ (retireSegment t cut r s) := by
  unfold retireSegment
  apply releasePending_moves
  split
  · exact raiseAttention_moves _ (requestTrack_moves _ _ (modTrack_moves _ _ h))
  · exact requestTrack_moves _ _ (modTrack_moves _ _ h)

theorem retireIfDone_moves (t : TrackId) (a : Address) (h : Moves w s₀ s) : Moves w s₀ (retireIfDone t a s) := by
  unfold retireIfDone
  split
  · split
    · exact retireSegment_moves t _ _ h
    · exact h
  · exact h

theorem cutSegments_moves (t : TrackId) (h : Moves w s₀ s) : Moves w s₀ (cutSegments t s) :=
  foldl_moves _ (fun _ r hs => retireSegment_moves t true r hs) _ h

theorem markFullyFetched_moves (t : TrackId) (h : Moves w s₀ s) : Moves w s₀ (markFullyFetched t s) :=
  retireIfDone_moves t _ (modTrack_moves _ _ h)

theorem countDropped_moves (t : TrackId) (a : Address) (h : Moves w s₀ s) : Moves w s₀ (countDropped t a s) :=
  modTrack_moves _ _ h

theorem countRanLate_moves (t : TrackId) (a : Address) (h : Moves w s₀ s) : Moves w s₀ (countRanLate t a s) :=
  modTrack_moves _ _ h

theorem countQueued_moves (t : TrackId) (a : Address) (h : Moves w s₀ s) : Moves w s₀ (countQueued t a s) :=
  modTrack_moves _ _ h

theorem countDispatched_moves (t : TrackId) (a : Address) (h : Moves w s₀ s) : Moves w s₀ (countDispatched t a s) :=
  modTrack_moves _ _ h

theorem countPurged_moves (t : TrackId) (a : Address) (h : Moves w s₀ s) : Moves w s₀ (countPurged t a s) :=
  modTrack_moves _ _ h

theorem purgeTrack_moves (t : TrackId) (h : Moves w s₀ s) : Moves w s₀ (purgeTrack t s) :=
  foldl_moves _ (fun _ e hs => countPurged_moves t e.segment hs) _ (h.step (.dropEntries s _))

theorem stopFetch_moves (t : TrackId) (h : Moves w s₀ s) : Moves w s₀ (stopFetch t s) :=
  modTrack_moves _ _ h

theorem noticeInHand_moves (t : TrackId) (h : Moves w s₀ s) : Moves w s₀ (noticeInHand t s) := by
  unfold noticeInHand
  split
  · split
    · exact countDispatched_moves _ _ (h.step (.inHand s _))
    · exact h
  · exact h

theorem requestBucketSummary_moves (p : ProbeId) (h : Moves w s₀ s) : Moves w s₀ (requestBucketSummary p s) := by
  simp only [requestBucketSummary]
  split
  · exact requestSummaryOf_moves _ h
  · exact h

theorem closeWindow_moves (p : ProbeId) (c : CloseCause) (time : Instant) (h : Moves w s₀ s) :
    Moves w s₀ (closeWindow p c time s) := by
  simp only [closeWindow]
  split
  · split
    · exact requestBucketSummary_moves p (modWindow_moves _ _ h)
    · exact modWindow_moves _ _ h
  · exact h

theorem closeWindowsOf_moves (t : TrackId) (c : CloseCause) (h : Moves w s₀ s) : Moves w s₀ (closeWindowsOf t c s) := by
  refine foldl_moves _ (fun u p hu => ?_) _ h
  show Moves w s₀ (if _ then _ else _)
  split
  · exact closeWindow_moves p _ _ hu
  · exact hu

theorem disarmOf_moves (t : TrackId) (h : Moves w s₀ s) : Moves w s₀ (disarmOf t s) := h.step (.listeners s _)

theorem closeAll_moves (h : Moves w s₀ s) : Moves w s₀ (closeAll s) := by
  have : Moves w s₀ (allProbes.foldl (fun s p => closeWindow p .deviceHalt s.now s) s) :=
    foldl_moves _ (fun u p hu => closeWindow_moves p _ _ hu) _ h
  exact this.step (.listeners _ _)

theorem stripTrack_moves (t : TrackId) (c : CloseCause) (h : Moves w s₀ s) : Moves w s₀ (stripTrack t c s) :=
  releaseLanes_moves t (disarmOf_moves t (closeWindowsOf_moves t c (cutSegments_moves t
    (purgeTrack_moves t (noticeInHand_moves t (stopFetch_moves t h))))))

theorem abortTrack_moves (t : TrackId) (c : CloseCause) (d : Word32) (h : Moves w s₀ s) : Moves w s₀ (abortTrack t c d s) :=
  answerDrain_moves _ _ _ (formStatus_moves t (setTrackState_moves t _ (stripTrack_moves t c h)))

theorem haltTrack_moves (t : TrackId) (k : FaultKind) (h : Moves w s₀ s) : Moves w s₀ (haltTrack t k s) := by
  simp only [haltTrack]
  split
  · exact answerDrain_moves _ _ _ (formStatus_moves t (raiseAttention_moves _ (setTrackState_moves t _
      (modTrack_moves _ _ (stripTrack_moves t _ h)))))
  · exact h

theorem endDrain_moves (t : TrackId) (h : Moves w s₀ s) : Moves w s₀ (endDrain t s) := by
  unfold endDrain
  apply answerDrain_moves
  apply formStatus_moves
  apply setTrackState_moves
  exact releaseLanes_moves t (closeWindowsOf_moves t _ (cutSegments_moves t h))

theorem releaseQuotaStall_moves (t : TrackId) (h : Moves w s₀ s) : Moves w s₀ (releaseQuotaStall t s) := by
  simp only [releaseQuotaStall]
  split
  · exact fetchNext_moves t (modTrack_moves _ _ h)
  · exact h

theorem dispatchNotice_moves (t : TrackId) (a : Address) (h : Moves w s₀ s) : Moves w s₀ (dispatchNotice t a s) := by
  have h1 : Moves w s₀ (retireIfDone t a (releaseQuotaStall t (countDispatched t a s))) :=
    retireIfDone_moves t a (releaseQuotaStall_moves t (countDispatched_moves t a h))
  simp only [dispatchNotice]
  split
  · exact endDrain_moves t h1
  · exact h1

/-! ## Faults -/

theorem haltAll_moves (p : TrackId → Bool) (k : FaultKind) (h : Moves w s₀ s) : Moves w s₀ (haltAll p k s) := by
  refine foldl_moves _ (fun u t hu => ?_) _ h
  show Moves w s₀ (if _ then _ else _)
  split
  · exact haltTrack_moves t k hu
  · exact hu

/-- A device halt is taken in RUNNING alone (R117). -/
theorem deviceHalt_moves (k : FaultKind) (h : Moves w s₀ s) (hr : s.control.device = .running) :
    Moves w s₀ (deviceHalt k s) :=
  formSummary_moves (raiseAttention_moves _ (haltAll_moves _ k (closeAll_moves
    (h.step (.halt s hr)))))

theorem resolveClass_device (cls : FaultClass) (c : FaultContext) (h : resolveClass cls c s = .device) :
    s.control.device = .running := by
  unfold resolveClass at h
  split at h
  · cases h
  · unfold trackClass at h; split at h <;> cases h
  · split at h
    · cases h
    · unfold trackClass at h; split at h <;> cases h
  · split at h
    · assumption
    · cases h

theorem classAction_moves (cls : FaultClass) (k : FaultKind) (c : FaultContext) (h : Moves w s₀ s)
    (hd : cls = .device → s.control.device = .running) : Moves w s₀ (classAction cls k c s) := by
  unfold classAction
  split
  · exact h
  · split
    · exact haltTrack_moves _ _ h
    · exact h
  · exact haltAll_moves _ _ h
  · exact deviceHalt_moves k h (hd rfl)

theorem countLost_moves (h : Moves w s₀ s) : Moves w s₀ (countLost s) := h.step (.lost s _)

theorem assignSlot_moves (i : Incident) (b : Bool) (h : Moves w s₀ s) : Moves w s₀ (assignSlot i b s) := by
  unfold assignSlot
  split
  · exact countLost_moves h
  · split
    · exact requestIncident_moves _ (h.step (.slots s _))
    · exact countLost_moves h

theorem takeFault_moves (k : FaultKind) (c : FaultContext) (b : Bool) (h : Moves w s₀ s) : Moves w s₀ (takeFault k c b s) := by
  simp only [takeFault]
  split
  · exact h.step (.masked s _)
  · refine raiseAttention_moves _ (assignSlot_moves _ _ (classAction_moves _ _ _ (h.step (.record s _ _ _)) ?_))
    intro hc
    exact resolveClass_device (s := s) _ c hc

theorem raiseFault_moves (k : FaultKind) (c : FaultContext) (h : Moves w s₀ s) : Moves w s₀ (raiseFault k c s) :=
  takeFault_moves k c false h

end Sys2Proof.Machine.Laws
end

