-- ==== Sys2Proof/Laws/QueueMoves.lean ====
section
/-! SUPPORT. The primitive changes that fetching, the Due Queue, the Probe Bank and the Lane Bank make. -/

namespace Sys2Proof.Machine.Laws

variable {w : Scope} {s₀ s : State}

/-! ## Fetching -/

theorem startPass_moves (t : TrackId) (h : Moves w s₀ s) : Moves w s₀ (startPass t s) := modTrack_moves _ _ h

theorem endPass_moves (t : TrackId) (h : Moves w s₀ s) : Moves w s₀ (endPass t s) := by
  simp only [endPass]
  split
  · split
    · exact fetchNext_moves t (startPass_moves t (modTrack_moves _ _ h))
    · exact requestLink_moves t _ (modTrack_moves _ _ h)
  · exact h

theorem resumeFetch_moves (t : TrackId) (h : Moves w s₀ s) : Moves w s₀ (resumeFetch t s) := by
  simp only [resumeFetch]
  split
  · split
    · split
      · exact endPass_moves t h
      · exact fetchNext_moves t h
    · exact h
  · exact h

theorem acceptHeader_moves (t : TrackId) (a : Address) (x : Header) (m : AnchorMode) (p : LatePolicy)
    (h : Moves w s₀ s) : Moves w s₀ (acceptHeader t a x m p s) := modTrack_moves _ _ h

theorem refuseEntry_moves (t : TrackId) (a : Address) (b : Bool) (h : Moves w s₀ s) : Moves w s₀ (refuseEntry t a b s) := by
  cases b <;> simp only [refuseEntry, Bool.false_eq_true, if_false, if_true] <;> apply formStatus_moves <;> split
  · exact setTrackState_moves t _ (modTrack_moves _ _ h)
  · exact setTrackState_moves t _ (modTrack_moves _ _ h)
  · exact setTrackState_moves t _ (modTrack_moves _ _ (requestTrack_moves _ _ h))
  · exact setTrackState_moves t _ (modTrack_moves _ _ (requestTrack_moves _ _ h))

theorem park_moves (t : TrackId) (h : Moves w s₀ s) : Moves w s₀ (park t s) := formStatus_moves t (setTrackState_moves t _ h)

theorem takeLink_moves (t : TrackId) (v : Address) (h : Moves w s₀ s) : Moves w s₀ (takeLink t v s) := by
  have h1 := markFullyFetched_moves t (modTrack_moves t (fun k => { k with fetch := none }) h)
  simp only [takeLink]
  split
  · exact park_moves t h1
  · split
    · exact raiseFault_moves _ _ (park_moves t (modTrack_moves _ _ h1))
    · exact beginEntry_moves t v _ h1

theorem takeScanLink_moves (t : TrackId) (v : Address) (h : Moves w s₀ s) : Moves w s₀ (takeScanLink t v s) := by
  unfold takeScanLink
  split
  · exact modTrack_moves _ _ h
  · split
    · exact h
    · exact formStatus_moves t (takeLink_moves t v (setTrackState_moves t _ (modTrack_moves _ _ h)))

theorem returnFromAwait_moves (t : TrackId) (raise : State → State) (hr : ∀ u, Moves w s₀ u → Moves w s₀ (raise u))
    (h : Moves w s₀ s) : Moves w s₀ (returnFromAwait t raise s) :=
  formStatus_moves t (resumeFetch_moves t (hr _ (setTrackState_moves t _ h)))

theorem takeBusy_moves (t : TrackId) (raise : State → State) (hr : ∀ u, Moves w s₀ u → Moves w s₀ (raise u))
    (h : Moves w s₀ s) : Moves w s₀ (takeBusy t raise s) := by
  unfold takeBusy
  split
  · exact returnFromAwait_moves t raise hr h
  · exact hr _ h

theorem takeAnchor_moves (t : TrackId) (i : Instant) (h : Moves w s₀ s) : Moves w s₀ (takeAnchor t i s) :=
  returnFromAwait_moves t id (fun _ hu => hu) (modTrack_moves _ _ h)

theorem takeSkip_moves (t : TrackId) (h : Moves w s₀ s) : Moves w s₀ (takeSkip t s) :=
  formStatus_moves t (requestLink_moves t _ (retireIfDone_moves t _ (setTrackState_moves t _ (modTrack_moves _ _ h))))

theorem handOutcome_moves (t : TrackId) (o : AwaitOutcome) (h : Moves w s₀ s) : Moves w s₀ (handOutcome t o s) := by
  unfold handOutcome
  split
  · exact modTrack_moves _ _ h
  · exact h

theorem handTimeoutFault_moves (t : TrackId) (i : Instant) (raise : State → State)
    (hr : ∀ u, Moves w s₀ u → Moves w s₀ (raise u)) (h : Moves w s₀ s) : Moves w s₀ (handTimeoutFault t i raise s) := by
  have h1 := hr _ (modTrack_moves t (fun k => { k with anchor := i, outcome := none }) h)
  simp only [handTimeoutFault]
  split
  · split
    · exact handOutcome_moves t _ (modTrack_moves _ _ h1)
    · exact h1
  · exact hr _ h

theorem takeOutcome_moves (t : TrackId) (h : Moves w s₀ s) : Moves w s₀ (takeOutcome t s) := by
  unfold takeOutcome
  split
  · have h1 := modTrack_moves t (fun k => { k with outcome := none }) h
    simp only
    split
    · split
      · exact takeAnchor_moves t _ h1
      · exact takeAnchor_moves t _ h1
      · exact takeSkip_moves t h1
      · exact h1
    · exact h1
  · exact h

theorem returnFirst_moves (t : TrackId) (h : Moves w s₀ s) : Moves w s₀ (returnFirst t s) := by
  unfold returnFirst
  simp only
  split
  · exact modTrack_moves t _ (takeOutcome_moves t h)
  · exact h

/-! ## Hand-off -/

theorem finishLanes_moves (x : HandOff) (k : FaultKind) (r : LaneBank × LaneSet)
    (hf : ∀ l, LaneFit (s.lanes.get l) → LaneFit (Table.get r.1 l)) (h : Moves w s₀ s) :
    Moves w s₀ (finishLanes x k r s) := by
  have h1 : Moves w s₀ { s with lanes := r.1 } := h.step (.lanes s _ hf)
  simp only [finishLanes]
  split
  · exact h1
  · exact raiseFault_moves _ _ h1

theorem handLanes_moves (x : HandOff) (f : Lane → Lane)
    (hf : ∀ k, LaneFit k → k.owner = some x.track → LaneFit (f k)) (h : Moves w s₀ s) : Moves w s₀ (handLanes x f s) :=
  finishLanes_moves x _ _ (fun l hl => ifOwned_fit x.lanes hf l (expireOn_fit x.lanes s.now l hl)) h

theorem handClaim_moves (x : HandOff) (h : Moves w s₀ s) : Moves w s₀ (handClaim x s) :=
  finishLanes_moves x _ _ (fun l hl => takeClaim_fit x.lanes l (expireOn_fit x.lanes s.now l hl)) h

theorem handOpen_moves (x : HandOff) (p : ProbeId) (e : EdgeKind) (b : Address) (c l sp q : Nat) (h : Moves w s₀ s) :
    Moves w s₀ (handOpen x p e b c l sp q s) := by
  unfold handOpen
  split
  · exact modWindow_moves _ _ h
  · exact raiseFault_moves _ _ h

theorem handClose_moves (x : HandOff) (p : ProbeId) (h : Moves w s₀ s) : Moves w s₀ (handClose x p s) := by
  simp only [handClose]
  split
  · split
    · exact closeWindow_moves p _ _ h
    · exact raiseFault_moves _ _ h
  · exact h

theorem handAwait_moves (x : HandOff) (p : ProbeId) (e : EdgeKind) (sp : Nat) (pol : TimeoutPolicy) (h : Moves w s₀ s) :
    Moves w s₀ (handAwait x p e sp pol s) := by
  unfold handAwait
  split
  · exact h
  · split
    · exact takeBusy_moves _ _ (fun u hu => raiseFault_moves _ _ hu) h
    · exact modListener_moves _ _ h

theorem handMark_moves (tag : Word32) (h : Moves w s₀ s) : Moves w s₀ (handMark tag s) :=
  raiseAttention_moves _ (h.step (.mark s _ _))

theorem handAction_moves (x : HandOff) (h : Moves w s₀ s) : Moves w s₀ (handAction x s) := by
  unfold handAction
  split
  · exact handLanes_moves x _ (fun k _ ho => LaneFit.drive (by simp [ho]) (by decide)) h
  · exact handLanes_moves x _ (fun k _ ho => LaneFit.drive (by simp [ho]) (by decide)) h
  · exact handLanes_moves x _ (fun k hk ho => hk.toggle (by simp [ho])) h
  · exact handLanes_moves x _ (fun k _ ho => LaneFit.pulse (by simp [ho]) _ _ _) h
  · exact handClaim_moves x h
  · exact handLanes_moves x _ (fun k _ _ => LaneFit.free k) h
  · exact handOpen_moves x _ _ _ _ _ _ _ h
  · exact handClose_moves x _ h
  · exact handAwait_moves x _ _ _ _ h
  · exact handMark_moves _ h

theorem notifyEffect_moves (x : HandOff) (h : Moves w s₀ s) : Moves w s₀ (notifyEffect x s) := by
  unfold notifyEffect
  split
  · exact raiseAttention_moves _ h
  · exact h

/-! ## Insertion and dispatch -/

theorem enterAwaiting_moves (r : Insertion) (h : Moves w s₀ s) : Moves w s₀ (enterAwaiting r s) := by
  unfold enterAwaiting
  split
  · exact formStatus_moves _ (setTrackState_moves _ _ h)
  · exact h

theorem runLate_moves (r : Insertion) (S : LaneSet) (h : Moves w s₀ s) : Moves w s₀ (runLate r S s) :=
  raiseFault_moves _ _ (notifyEffect_moves _ (handAction_moves _ (enterAwaiting_moves r (countRanLate_moves _ _ h))))

theorem dropLate_moves (r : Insertion) (S : LaneSet) (h : Moves w s₀ s) : Moves w s₀ (dropLate r S s) :=
  raiseFault_moves _ _ (countDropped_moves _ _ h)

theorem dropCollided_moves (r : Insertion) (S C : LaneSet) (h : Moves w s₀ s) : Moves w s₀ (dropCollided r S C s) :=
  raiseFault_moves _ _ (countDropped_moves _ _ h)

theorem enqueue_moves (hw : w ≠ .part) (r : Insertion) (S : LaneSet) (h : Moves w s₀ s) (hn : s.now < r.due)
    (hc : r.action.isDriving = true → collisionSet s.queue.entries r.due S = 0) : Moves w s₀ (enqueue r S s) :=
  enterAwaiting_moves r (countQueued_moves _ _ (h.step (.enqueue hw s (r.entry S s.queue.insertion) _ hn hc)))

theorem insertAction_moves (hw : w ≠ .part) (r : Insertion) (h : Moves w s₀ s) : Moves w s₀ (insertAction r s) := by
  unfold insertAction
  extract_lets S C
  split
  · split
    · exact runLate_moves r _ h
    · exact dropLate_moves r _ h
  · rename_i hl
    split
    · rename_i hc
      refine enqueue_moves hw r _ h (BitVec.not_le.1 hl) (fun hd => ?_)
      simpa [C, hd] using hc
    · exact dropCollided_moves r _ _ h

theorem dispatchEntry_moves (e : Entry) (h : Moves w s₀ s) : Moves w s₀ (dispatchEntry e s) := by
  have h0 : Moves w s₀ (s.modQueue fun q => { q with entries := q.entries.tail, inHand := some e }) :=
    (h.step (.takeEntry s)).step (.inHand _ (some e))
  have h1 := notifyEffect_moves e.handOff (handAction_moves e.handOff h0)
  simp only [dispatchEntry]
  split
  · exact dispatchNotice_moves _ _ (h1.step (.inHand _ none))
  · exact h1

theorem dispatchDue_moves (n : Nat) (h : Moves w s₀ s) : Moves w s₀ (dispatchDue n s) := by
  induction n generalizing s with
  | zero => exact h
  | succ n ih =>
    unfold dispatchDue
    split
    · split
      · exact ih (dispatchEntry_moves _ h)
      · exact h
    · exact h

theorem dispatchEvent_moves (h : Moves w s₀ s) : Moves w s₀ (dispatchEvent s) := dispatchDue_moves _ h

/-! ## Edges and instants -/

theorem admitEdge_moves (p : ProbeId) (pol : Polarity) (e : Instant) (h : Moves w s₀ s)
    (hc : s.probes.captures.length < Config.captureCapacity) : Moves w s₀ (admitEdge p pol e s) := by
  have h1 := modWindow_moves p (fun w => { w with count := w.count + 1, pending := w.pending + 1, lastTime := some e
                                                  firstTime := some (w.firstTime.getD e) })
    (h.step (.capture s ⟨p, (s.probes.windows.get p).bucket, (s.probes.windows.get p).count, e, pol⟩ hc))
  simp only [admitEdge]
  split
  · exact closeWindow_moves p _ _ h1
  · exact h1

theorem windowEdge_moves (p : ProbeId) (pol : Polarity) (e : Instant) (h : Moves w s₀ s) :
    Moves w s₀ (windowEdge p pol e s) := by
  simp only [windowEdge]
  split
  · split
    · exact modWindow_moves _ _ h
    · split
      · exact raiseFault_moves _ _ (modWindow_moves _ _ h)
      · rename_i hc
        exact admitEdge_moves p pol e h (Nat.lt_of_not_le hc)
  · exact h

theorem listenerEdge_moves (p : ProbeId) (pol : Polarity) (e : Instant) (h : Moves w s₀ s) :
    Moves w s₀ (listenerEdge p pol e s) := by
  simp only [listenerEdge]
  split
  · split
    · exact handOutcome_moves _ _ (modListener_moves _ _ h)
    · exact modListener_moves _ _ h
  · exact h

theorem handWindowEdge_moves (p : ProbeId) (h : Moves w s₀ s) : Moves w s₀ (handWindowEdge p s) := by
  unfold handWindowEdge
  split
  · exact windowEdge_moves p _ _ (h.step (.edges s _ fun q => by rw [Table.get_modify]; split <;> rfl))
  · exact h

theorem handListenerEdge_moves (p : ProbeId) (h : Moves w s₀ s) : Moves w s₀ (handListenerEdge p s) := by
  unfold handListenerEdge
  split
  · exact listenerEdge_moves p _ _ (h.step (.edges s _ fun q => by rw [Table.get_modify]; split <;> rfl))
  · exact h

theorem handEdge_moves (p : ProbeId) (o : EdgeOrder) (h : Moves w s₀ s) : Moves w s₀ (handEdge p o s) := by
  unfold handEdge
  split
  · exact handListenerEdge_moves p (handWindowEdge_moves p h)
  · exact handWindowEdge_moves p (handListenerEdge_moves p h)
  · exact handWindowEdge_moves p h
  · exact handListenerEdge_moves p h

theorem deadlineEvent_moves (p : ProbeId) (h : Moves w s₀ s) : Moves w s₀ (deadlineEvent p s) := by
  simp only [deadlineEvent]
  split
  · split
    · exact raiseFault_moves _ _ (closeWindow_moves p _ _ h)
    · exact closeWindow_moves p _ _ h
  · exact h

theorem timeoutEvent_moves (p : ProbeId) (h : Moves w s₀ s) : Moves w s₀ (timeoutEvent p s) := by
  simp only [timeoutEvent]
  split
  · split
    · split
      · exact handOutcome_moves _ _ (modListener_moves _ _ h)
      · exact handTimeoutFault_moves _ _ _ (fun u hu => raiseFault_moves _ _ hu) (modListener_moves _ _ h)
    · exact modListener_moves _ _ h
  · exact h

theorem returnEdgeEvent_moves (l : LaneId) (h : Moves w s₀ s) : Moves w s₀ (returnEdgeEvent l s) := by
  refine h.step (.lanes s _ fun m hm => ?_)
  rw [Table.get_modify]
  split
  · exact hm.expire _
  · exact hm

end Sys2Proof.Machine.Laws
end

