-- ==== Sys2Proof/Laws/HandOffs.lean ====
section
/-! SUPPORT. Hand-offs to the Lane Bank, await outcomes at the engine, and dispatches, case by case. -/

namespace Sys2Proof.Machine.Laws

/-! ## The Lane Bank's answers -/

theorem expire_owner (now : Instant) (k : Lane) : (k.expire now).owner = k.owner := by
  unfold Lane.expire
  split
  · split <;> rfl
  · rfl

theorem expire_safe (now : Instant) (k : Lane) : (k.expire now).safe = k.safe := by
  unfold Lane.expire
  split
  · split <;> rfl
  · rfl

theorem expireOn_owner (b : LaneBank) (S : LaneSet) (now : Instant) (l : LaneId) :
    (Table.get (LaneBank.expireOn b S now) l).owner = (b.get l).owner := by
  rw [expireOn_get]
  split
  · exact expire_owner now _
  · rfl

theorem finishLanes_ok (h : HandOff) (k : FaultKind) (b : LaneBank) (s : State) :
    finishLanes h k (b, 0) s = { s with lanes := b } := by
  unfold finishLanes
  exact if_pos rfl

theorem finishLanes_off (h : HandOff) (k : FaultKind) (b : LaneBank) {C : LaneSet} (hC : C ≠ 0) (s : State) :
    finishLanes h k (b, C) s = raiseFault k (h.context C none s.now) { s with lanes := b } := by
  unfold finishLanes
  exact if_neg hC

/-- A drive or RELEASE of lanes the track owns acts on the whole set (R72, R73, R74). -/
theorem handLanes_owned {h : HandOff} {f : Lane → Lane} {s : State}
    (ho : ∀ l, laneIn h.lanes l = true → (s.lanes.get l).owner = some h.track) :
    handLanes h f s = { s with lanes := (LaneBank.expireOn s.lanes h.lanes s.now).onSet h.lanes f } := by
  have hz : LaneBank.notOwned (LaneBank.expireOn s.lanes h.lanes s.now) h.track h.lanes = 0 := by
    rw [notOwned_eq_zero_iff]
    intro l hl
    rw [expireOn_owner]
    exact ho l hl
  unfold handLanes
  rw [ifOwned_eq, if_pos hz, finishLanes_ok]

/-- One that names a lane the track does not own raises NOT_OWNER and drives none (R72, R73). -/
theorem handLanes_refused {h : HandOff} {f : Lane → Lane} {s : State}
    (ho : ∃ l, laneIn h.lanes l = true ∧ (s.lanes.get l).owner ≠ some h.track) :
    handLanes h f s =
      raiseFault .notOwner (h.context (LaneBank.notOwned s.lanes h.track h.lanes) none s.now)
        { s with lanes := LaneBank.expireOn s.lanes h.lanes s.now } := by
  have he : LaneBank.notOwned (LaneBank.expireOn s.lanes h.lanes s.now) h.track h.lanes =
      LaneBank.notOwned s.lanes h.track h.lanes := by
    unfold LaneBank.notOwned LaneBank.owns
    simp only [expireOn_owner]
  have hz : LaneBank.notOwned s.lanes h.track h.lanes ≠ 0 := by
    intro hz
    rw [notOwned_eq_zero_iff] at hz
    obtain ⟨l, h1, h2⟩ := ho
    exact h2 (hz l h1)
  unfold handLanes
  rw [ifOwned_eq, he, if_neg hz, finishLanes_off _ _ _ hz]

/-- A CLAIM of lanes no other track owns takes the whole set (R70). -/
theorem handClaim_free {h : HandOff} {s : State}
    (ho : ∀ l, laneIn h.lanes l = true → (s.lanes.get l).owner = none ∨ (s.lanes.get l).owner = some h.track) :
    handClaim h s = { s with lanes := (LaneBank.expireOn s.lanes h.lanes s.now).onSet h.lanes (Lane.claim h.track) } := by
  have hz : LaneBank.ownedByOthers (LaneBank.expireOn s.lanes h.lanes s.now) h.track h.lanes = 0 := by
    rw [ownedByOthers_eq_zero_iff]
    intro l hl
    rw [expireOn_owner]
    exact ho l hl
  unfold handClaim
  rw [takeClaim_eq, if_pos hz, finishLanes_ok]

/-- One that names a lane of another track raises CLAIM_CONFLICT and takes none (R71). -/
theorem handClaim_refused {h : HandOff} {s : State}
    (ho : ∃ l, laneIn h.lanes l = true ∧ (s.lanes.get l).owner ≠ some h.track ∧ (s.lanes.get l).owner ≠ none) :
    handClaim h s =
      raiseFault .claimConflict (h.context (LaneBank.ownedByOthers s.lanes h.track h.lanes) none s.now)
        { s with lanes := LaneBank.expireOn s.lanes h.lanes s.now } := by
  have he : LaneBank.ownedByOthers (LaneBank.expireOn s.lanes h.lanes s.now) h.track h.lanes =
      LaneBank.ownedByOthers s.lanes h.track h.lanes := by
    unfold LaneBank.ownedByOthers LaneBank.owns
    simp only [expireOn_owner]
  have hz : LaneBank.ownedByOthers s.lanes h.track h.lanes ≠ 0 := by
    intro hz
    rw [ownedByOthers_eq_zero_iff] at hz
    obtain ⟨l, h1, h2, h3⟩ := ho
    exact (hz l h1).elim h3 h2
  unfold handClaim
  rw [takeClaim_eq, he, if_neg hz, finishLanes_off _ _ _ hz]

/-! ## What a part of an event keeps -/

/-- No part of an event changes the count, F, the latch, ANCHOR or memory, and none puts an entry into the queue. -/
theorem part_keeps {s t : State} (h : Moves .part s t) :
    t.timebase.count = s.timebase.count ∧ t.timebase.frame = s.timebase.frame ∧
      t.timebase.timeHi = s.timebase.timeHi ∧ t.queue.entries.Sublist s.queue.entries ∧
      t.control.anchor = s.control.anchor ∧ t.memory = s.memory := by
  induction h with
  | refl => exact ⟨rfl, rfl, rfl, List.Sublist.refl _, rfl, rfl⟩
  | tail _ m ih =>
    obtain ⟨h1, h2, h3, h4, h5, h6⟩ := ih
    cases m with
    | dropEntries _ p => exact ⟨h1, h2, h3, List.filter_sublist.trans h4, h5, h6⟩
    | takeEntry => exact ⟨h1, h2, h3, (List.tail_sublist _).trans h4, h5, h6⟩
    | enqueue hw => exact absurd rfl hw
    | _ => exact ⟨h1, h2, h3, h4, h5, h6⟩

/-- A hand-off changes no time. -/
theorem handOff_count (h : HandOff) (s : State) :
    (notifyEffect h (handAction h s)).timebase.count = s.timebase.count :=
  (part_keeps (notifyEffect_moves h (handAction_moves h .refl))).1

/-! ## Dispatches -/

/-- A dispatch takes the head, and no entry enters (R46, R54). -/
theorem dispatchEntry_entries (e : Entry) (s : State) :
    (dispatchEntry e s).queue.entries.Sublist s.queue.entries.tail := by
  have h : Moves .part (s.modQueue fun q => { q with entries := q.entries.tail, inHand := some e }) (dispatchEntry e s) := by
    have h1 := notifyEffect_moves e.handOff (handAction_moves e.handOff (w := .part)
      (s₀ := s.modQueue fun q => { q with entries := q.entries.tail, inHand := some e }) .refl)
    simp only [dispatchEntry]
    split
    · exact dispatchNotice_moves _ _ (h1.step (.inHand _ none))
    · exact h1
  exact (part_keeps h).2.2.2.1

/-- A larger bound than the queue's length changes nothing. -/
theorem dispatchDue_bound (n m : Nat) (s : State) (hn : s.queue.entries.length ≤ n) (hm : s.queue.entries.length ≤ m) :
    dispatchDue n s = dispatchDue m s := by
  induction n generalizing m s with
  | zero =>
    have h : s.queue.entries = [] := List.length_eq_zero_iff.1 (by omega)
    cases m with
    | zero => rfl
    | succ m => simp only [dispatchDue, h]
  | succ n ih =>
    cases m with
    | zero =>
      have h : s.queue.entries = [] := List.length_eq_zero_iff.1 (by omega)
      simp only [dispatchDue, h]
    | succ m =>
      cases he : s.queue.entries with
      | nil => simp only [dispatchDue, he]
      | cons e es =>
        simp only [dispatchDue, he]
        split
        · have h := (dispatchEntry_entries e s).length_le
          rw [he, List.tail_cons] at h
          rw [he, List.length_cons] at hn hm
          exact ih m _ (by omega) (by omega)
        · rfl

/-- A due entry at the head is dispatched, and then the queue is looked at again (R53). -/
theorem dispatchEvent_head {s : State} {e : Entry} {es : List Entry} (h : s.queue.entries = e :: es)
    (hd : e.due ≤ s.timebase.count) : dispatchEvent s = dispatchEvent (dispatchEntry e s) := by
  have hsub := (dispatchEntry_entries e s).length_le
  rw [h, List.tail_cons] at hsub
  unfold dispatchEvent
  rw [h, List.length_cons, dispatchDue]
  simp only [h]
  rw [if_pos (show e.due ≤ s.now from hd)]
  exact dispatchDue_bound _ _ _ hsub (Nat.le_refl _)

end Sys2Proof.Machine.Laws
end

