-- ==== Sys2Proof/Laws/Memory.lean ====
section
/-! SUPPORT. The memory image: one byte and one record stored, read back; every operation keeps the canonical form. -/

namespace Sys2Proof.Machine.Laws

theorem put_mem (m : Memory) (a : Nat) (b : Byte) : ∀ c ∈ m.put a b, c.1 = a ∨ c ∈ m := by
  induction m with
  | nil => simp [Memory.put]
  | cons c m ih =>
    unfold Memory.put
    split
    · intro x hx
      rcases List.mem_cons.1 hx with rfl | hx
      · exact .inl rfl
      · exact .inr hx
    · split
      · intro x hx
        rcases List.mem_cons.1 hx with rfl | hx
        · exact .inl rfl
        · exact .inr (List.mem_cons_of_mem _ hx)
      · intro x hx
        rcases List.mem_cons.1 hx with rfl | hx
        · exact .inr List.mem_cons_self
        · exact (ih x hx).imp_right (List.mem_cons_of_mem _)

/-- Storing a byte keeps the canonical form. -/
theorem put_wf (m : Memory) (a : Nat) (b : Byte) (h : m.wf) : (m.put a b).wf := by
  induction m with
  | nil => simp [Memory.put, Memory.wf]
  | cons c m ih =>
    have hc := List.pairwise_cons.1 h
    unfold Memory.put
    split
    · next hlt =>
      refine List.pairwise_cons.2 ⟨?_, h⟩
      intro x hx
      rcases List.mem_cons.1 hx with rfl | hx
      · exact hlt
      · have := hc.1 x hx
        show a < x.1
        omega
    · split
      · next hlt heq =>
        refine List.pairwise_cons.2 ⟨?_, hc.2⟩
        intro x hx
        have := hc.1 x hx
        show a < x.1
        omega
      · next hlt heq =>
        refine List.pairwise_cons.2 ⟨?_, ih hc.2⟩
        intro x hx
        rcases put_mem m a b x hx with hx | hx
        · omega
        · exact hc.1 x hx

/-- Storing a record keeps the canonical form. -/
theorem store_wf (m : Memory) (a : Address) (bs : List Byte) (h : m.wf) : (Memory.store m a bs).wf := by
  induction bs generalizing m a with
  | nil => exact h
  | cons b bs ih => exact ih _ _ (put_wf _ _ _ h)

/-- A byte stored reads back, and every other byte as before. -/
theorem read_put (m : Memory) (a i : Nat) (b : Byte) : (m.put a b).read i = if i = a then some b else m.read i := by
  induction m with
  | nil => simp only [Memory.put, Memory.read]
  | cons c m ih =>
    unfold Memory.put
    split
    · rfl
    · split
      · next h1 h2 =>
        subst h2
        simp only [Memory.read]
        split <;> rfl
      · next h1 h2 =>
        simp only [Memory.read, ih]
        split
        · next h =>
          subst h
          rw [if_neg (fun e => h2 e.symm)]
        · rfl

/-- The next address, while it exists. -/
theorem add64_one {a : Address} (h : a.toNat + 1 < 2 ^ 64) : (add64 a 1).toNat = a.toNat + 1 := by
  unfold add64
  rw [if_pos h, BitVec.toNat_ofNat, Nat.mod_eq_of_lt h]

end Sys2Proof.Machine.Laws
end

