-- ==== Sys2Proof/Laws/PerInstr.lean ====
section
/-! SUPPORT. A statement about each command as syntax: the nine directive rows carry a sequence number that is not 0, and
no other check is made on them. -/

namespace Sys2Proof.Laws.DirectiveRow

/-- The sequence number a directive row carries (spec 08). -/
def sequenceOf : Instr → Option Word16
  | .drainTrack n _ => some n
  | .abortTrack n _ => some n
  | .clearTrack n _ => some n
  | .setGang n _ _ => some n
  | .configureLane n _ _ => some n
  | .setFaultPolicy n _ _ _ => some n
  | .ackFaults n _ => some n
  | .loadTime n _ => some n
  | .setFrame n _ => some n
  | _ => none

/-- A command that is a directive row is well formed exactly when its sequence number is not 0. -/
def Statement (i : Instr) : Prop := ∀ n, sequenceOf i = some n → (i.wf = true ↔ n ≠ 0)

theorem row {i : Instr} {m : Word16} (hs : sequenceOf i = some m) (hw : i.wf = sequenceWf m) : Statement i := by
  intro n hn
  rw [hs] at hn
  cases hn
  rw [hw]
  unfold sequenceWf
  simp

theorem other {i : Instr} (hs : sequenceOf i = none) : Statement i := by
  intro n hn
  rw [hs] at hn
  cases hn

theorem frameBoundary : Statement .frameBoundary := other rfl
theorem probeEdge (probe : ProbeId) (order : EdgeOrder) : Statement (.probeEdge probe order) := other rfl
theorem dispatchEvent : Statement .dispatchEvent := other rfl
theorem returnEdgeExpiry (lane : LaneId) : Statement (.returnEdgeExpiry lane) := other rfl
theorem deadlineExpiry (probe : ProbeId) : Statement (.deadlineExpiry probe) := other rfl
theorem timeoutExpiry (probe : ProbeId) : Statement (.timeoutExpiry probe) := other rfl
theorem timeLoRead : Statement .timeLoRead := other rfl
theorem run (pins : Word16) : Statement (.run pins) := other rfl
theorem stop : Statement .stop := other rfl
theorem scan : Statement .scan := other rfl
theorem reset : Statement .reset := other rfl
theorem anchorLoWrite (value : Word32) : Statement (.anchorLoWrite value) := other rfl
theorem anchorHiWrite (value : Word32) : Statement (.anchorHiWrite value) := other rfl
theorem attentionWrite (value : Word32) : Statement (.attentionWrite value) := other rfl
theorem attnEnableWrite (value : Word32) : Statement (.attnEnableWrite value) := other rfl
theorem registerWriteNoEffect (register : QuietRegister) (value : Word32) : Statement (.registerWriteNoEffect register value) := other rfl
theorem badRegisterAccess (access : RegisterAccess) : Statement (.badRegisterAccess access) := other rfl
theorem powerOnReset (phase : ResetPhase) : Statement (.powerOnReset phase) := other rfl
theorem startTrack (descriptor : ReadResult 128) : Statement (.startTrack descriptor) := other rfl
theorem drainTrack (sequence : Word16) (track : Word64) : Statement (.drainTrack sequence track) := row rfl rfl
theorem abortTrack (sequence : Word16) (track : Word64) : Statement (.abortTrack sequence track) := row rfl rfl
theorem clearTrack (sequence : Word16) (track : Word64) : Statement (.clearTrack sequence track) := row rfl rfl
theorem setGang (sequence : Word16) (gang lanes : Word64) : Statement (.setGang sequence gang lanes) := row rfl rfl
theorem configureLane (sequence : Word16) (lane safe : Word64) : Statement (.configureLane sequence lane safe) := row rfl rfl
theorem setFaultPolicy (sequence : Word16) (kind cls masked : Word64) : Statement (.setFaultPolicy sequence kind cls masked) := row rfl rfl
theorem ackFaults (sequence : Word16) (kinds : Word64) : Statement (.ackFaults sequence kinds) := row rfl rfl
theorem loadTime (sequence : Word16) (value : Word64) : Statement (.loadTime sequence value) := row rfl rfl
theorem setFrame (sequence : Word16) (exponent : Word64) : Statement (.setFrame sequence exponent) := row rfl rfl
theorem headerReadDone (result : ReadResult 256) : Statement (.headerReadDone result) := other rfl
theorem actionReadDone (result : ReadResult 256) : Statement (.actionReadDone result) := other rfl
theorem linkWordReadDone (result : ReadResult 64) : Statement (.linkWordReadDone result) := other rfl
theorem scanLinkReadDone (result : ReadResult 64) : Statement (.scanLinkReadDone result) := other rfl
theorem heldFlagReadDone (result : ReadResult 32) : Statement (.heldFlagReadDone result) := other rfl
theorem retireWriteDone (result : WriteResult) : Statement (.retireWriteDone result) := other rfl
theorem captureRecordWriteDone (result : WriteResult) : Statement (.captureRecordWriteDone result) := other rfl
theorem bucketSummaryWriteDone (result : WriteResult) : Statement (.bucketSummaryWriteDone result) := other rfl
theorem incidentWriteDone (result : WriteResult) : Statement (.incidentWriteDone result) := other rfl
theorem resultWriteDone (result : WriteResult) : Statement (.resultWriteDone result) := other rfl
theorem summaryWriteDone (result : WriteResult) : Statement (.summaryWriteDone result) := other rfl
theorem statusWriteDone (result : WriteResult) : Statement (.statusWriteDone result) := other rfl
theorem directiveSlotReadDone (result : ReadResult 256) : Statement (.directiveSlotReadDone result) := other rfl
theorem countAdvance (pins : Word16) : Statement (.countAdvance pins) := other rfl

end Sys2Proof.Laws.DirectiveRow
end

