-- ==== Sys2Proof/Laws/PortMoves.lean ====
section
/-! SUPPORT. The primitive changes that the directive unit, the scanner and the memory port make. -/

namespace Sys2Proof.Machine.Laws

variable {w : Scope} {s₀ s : State}

/-! ## Directives -/

theorem answer_moves (d : DirectiveSlot) (o : DirectiveOutcome) (n : Nat) (h : Moves w s₀ s) : Moves w s₀ (answer d o n s) :=
  formResult_moves _ _ _ h

theorem onRunningTrack_moves (d : DirectiveSlot) (a : TrackState → Bool) (f : TrackId → State → State)
    (hf : ∀ t, Moves w s₀ s → Moves w s₀ (f t s)) (h : Moves w s₀ s) : Moves w s₀ (onRunningTrack d a f s) := by
  unfold onRunningTrack
  split
  · exact answer_moves _ _ _ h
  · split
    · exact answer_moves _ _ _ h
    · split
      · exact answer_moves _ _ _ h
      · exact hf _ h

theorem drainEffect_moves (n : Word16) (t : TrackId) (h : Moves w s₀ s) : Moves w s₀ (drainEffect n t s) := by
  have h1 := disarmOf_moves t (setTrackState_moves t .closing (stopFetch_moves t h))
  have h2 := (formStatus_moves t h1).step (.directives _ { (stopFetch t s).directives with drain := some ⟨n, t⟩ })
  unfold drainEffect
  simp only []
  split
  · exact endDrain_moves t h2
  · exact h2

theorem directiveDrain_moves (d : DirectiveSlot) (h : Moves w s₀ s) : Moves w s₀ (directiveDrain d s) :=
  onRunningTrack_moves d _ _ (fun t h => drainEffect_moves _ t h) h

theorem abortEffect_moves (d : DirectiveSlot) (t : TrackId) (h : Moves w s₀ s) : Moves w s₀ (abortEffect d t s) :=
  answer_moves d _ _ (abortTrack_moves t _ _ h)

theorem directiveAbort_moves (d : DirectiveSlot) (h : Moves w s₀ s) : Moves w s₀ (directiveAbort d s) :=
  onRunningTrack_moves d _ _ (fun t h => abortEffect_moves d t h) h

theorem directiveClear_moves (d : DirectiveSlot) (h : Moves w s₀ s) : Moves w s₀ (directiveClear d s) := by
  unfold directiveClear
  split
  · exact answer_moves _ _ _ h
  · rename_i t _
    have h1 := returnFirst_moves t h
    simp only []
    split
    · exact answer_moves _ _ _ h1
    · exact answer_moves _ _ _ (formStatus_moves _ (setTrackState_moves _ _ (modTrack_moves _ _ h1)))

theorem directiveSetGang_moves (d : DirectiveSlot) (h : Moves .command s₀ s) : Moves .command s₀ (directiveSetGang d s) := by
  unfold directiveSetGang
  split
  · exact answer_moves _ _ _ h
  · split
    · exact answer_moves _ _ _ h
    · exact answer_moves _ _ _ (h.step (.gangs s _))

theorem directiveConfigureLane_moves (d : DirectiveSlot) (h : Moves w s₀ s) : Moves w s₀ (directiveConfigureLane d s) := by
  unfold directiveConfigureLane
  split
  · exact answer_moves _ _ _ h
  · exact answer_moves _ _ _ h
  · split
    · exact answer_moves _ _ _ h
    · rename_i l v _ _ ho
      refine answer_moves _ _ _ (h.step (.lanes s _ fun m hm => ?_))
      rw [Table.get_modify]
      split
      · rename_i hlm
        subst hlm
        exact hm.configure ho _
      · exact hm

theorem directiveSetPolicy_moves (d : DirectiveSlot) (h : Moves .command s₀ s) : Moves .command s₀ (directiveSetPolicy d s) := by
  unfold directiveSetPolicy
  split
  · exact answer_moves _ _ _ h
  · exact answer_moves _ _ _ h
  · exact answer_moves _ _ _ h
  · exact answer_moves _ _ _ (h.step (.policy s _))

theorem directiveAck_moves (d : DirectiveSlot) (h : Moves .command s₀ s) : Moves .command s₀ (directiveAck d s) := by
  unfold directiveAck
  split
  · exact answer_moves _ _ _ h
  · exact answer_moves _ _ _ (h.step (.acknowledge s _))

theorem directiveLoadTime_moves (d : DirectiveSlot) (h : Moves .command s₀ s) : Moves .command s₀ (directiveLoadTime d s) := by
  unfold directiveLoadTime
  split
  · exact answer_moves _ _ _ h
  · split
    · exact answer_moves _ _ _ h
    · exact answer_moves _ _ _ (h.step (.count s _))

theorem directiveSetFrame_moves (d : DirectiveSlot) (h : Moves .command s₀ s) : Moves .command s₀ (directiveSetFrame d s) := by
  unfold directiveSetFrame
  split
  · exact answer_moves _ _ _ h
  · split
    · exact answer_moves _ _ _ h
    · rename_i hf
      exact answer_moves _ _ _ (h.step (.frame s _ (by omega)))

theorem executeDirective_moves (d : DirectiveSlot) (h : Moves .command s₀ s) : Moves .command s₀ (executeDirective d s) := by
  unfold executeDirective
  split
  · exact answer_moves _ _ _ h
  · split
    · exact answer_moves _ _ _ h
    · exact directiveDrain_moves d h
    · exact directiveAbort_moves d h
    · exact directiveClear_moves d h
    · exact directiveSetGang_moves d h
    · exact directiveConfigureLane_moves d h
    · exact directiveSetPolicy_moves d h
    · exact directiveAck_moves d h
    · exact directiveLoadTime_moves d h
    · exact directiveSetFrame_moves d h
    · exact answer_moves _ _ _ h

theorem startEffect_moves (t : TrackId) (d : Descriptor) (h : Moves w s₀ s) : Moves w s₀ (startEffect t d s) :=
  formStatus_moves t (beginEntry_moves t _ _ (modTrack_moves _ _ h))

theorem startChecked_moves (t : TrackId) (n : Word16) (d : Descriptor) (h : Moves w s₀ s) :
    Moves w s₀ (startChecked t n d s) := by
  have h1 := returnFirst_moves t h
  unfold startChecked
  simp only []
  split
  · exact formResult_moves _ _ _ h1
  · split
    · exact formResult_moves _ _ _ h1
    · split
      · exact formResult_moves _ _ _ h1
      · exact formResult_moves _ _ _ (startEffect_moves t d h1)

theorem executeStart_moves (t : TrackId) (n : Word16) (r : ReadResult 128) (h : Moves w s₀ s) :
    Moves w s₀ (executeStart t n r s) := by
  unfold executeStart
  split
  · exact formResult_moves _ _ _ h
  · split
    · exact formResult_moves _ _ _ h
    · split
      · exact formResult_moves _ _ _ h
      · exact startChecked_moves t n _ h

/-! ## Scans -/

theorem formScanWrites_moves (h : Moves w s₀ s) : Moves w s₀ (formScanWrites s) := by
  have h1 : Moves w s₀ (if s.port.lastSummary = some (summaryImage s) then s else formSummary s) := by
    split
    · exact h
    · exact formSummary_moves h
  refine foldl_moves _ (fun u t hu => ?_) _ h1
  show Moves w s₀ (if _ then _ else _)
  split
  · exact hu
  · exact formStatus_moves t hu

theorem finishScan_moves (h : Moves w s₀ s) : Moves w s₀ (finishScan s) := formScanWrites_moves (h.step (.scanner s _))

theorem beginScan_moves (h : Moves w s₀ s) : Moves w s₀ (beginScan s) := by
  unfold beginScan
  simp only []
  split
  · exact requestScanRead_moves _ (h.step (.scanner s _))
  · exact finishScan_moves h

theorem endScan_moves (h : Moves w s₀ s) : Moves w s₀ (endScan s) := by
  have h1 := finishScan_moves h
  unfold endScan
  simp only []
  split
  · split
    · exact h1.step (.scanner _ _)
    · exact beginScan_moves (h1.step (.scanner _ _))
  · exact h1

theorem startScan_moves (h : Moves w s₀ s) : Moves w s₀ (startScan s) := by
  unfold startScan
  simp only []
  split
  · exact requestScanRead_moves _ (h.step (.scanner s _))
  · exact endScan_moves h

theorem scanTrigger_moves (h : Moves w s₀ s) : Moves w s₀ (scanTrigger s) := by
  unfold scanTrigger
  split
  · exact h
  · split
    · exact h.step (.scanner s _)
    · exact startScan_moves h

theorem frameTrigger_moves (h : Moves w s₀ s) : Moves w s₀ (frameTrigger s) := by
  unfold frameTrigger
  split
  · exact h
  · split
    · exact h.step (.scanner s _)
    · exact startScan_moves h

theorem continueScan_moves (f : BitVec 32 → State → Option ScanRead) (h : Moves w s₀ s) : Moves w s₀ (continueScan f s) := by
  unfold continueScan
  split
  · split
    · exact requestScanRead_moves _ h
    · exact endScan_moves h
  · exact h

theorem takeSlot_moves (d : DirectiveSlot) (h : Moves .command s₀ s) : Moves .command s₀ (takeSlot d s) := by
  have h1 := h.step (.directives s { s.directives with lastSeen := d.sequence })
  unfold takeSlot
  simp only []
  split
  · exact requestScanRead_moves _ h1
  · exact continueScan_moves _ (executeDirective_moves d h1)

theorem slotReadDone_moves (d : DirectiveSlot) (h : Moves .command s₀ s) : Moves .command s₀ (slotReadDone d s) := by
  unfold slotReadDone
  split
  · exact takeSlot_moves d h
  · exact continueScan_moves _ h

theorem slotReadFailed_moves (a : Address) (h : Moves w s₀ s) : Moves w s₀ (slotReadFailed a s) :=
  continueScan_moves _ (raiseFault_moves _ _ h)

theorem descriptorDone_moves (t : TrackId) (n : Word16) (a : Address) (r : ReadResult 128) (h : Moves w s₀ s) :
    Moves w s₀ (descriptorDone t n a r s) := by
  have h1 := executeStart_moves t n r h
  cases r with
  | data d => exact continueScan_moves _ h1
  | error => exact continueScan_moves _ (raiseFault_moves _ _ h1)

theorem scanLinkDone_moves (t : TrackId) (a : Address) (r : ReadResult 64) (h : Moves w s₀ s) :
    Moves w s₀ (scanLinkDone t a r s) := by
  cases r with
  | data v =>
    refine continueScan_moves _ ?_
    show Moves w s₀ (if _ then _ else _)
    split
    · exact takeScanLink_moves t v h
    · exact h
  | error => exact continueScan_moves _ (raiseFault_moves _ _ h)

theorem heldFlagDone_moves (n : SlotId) (a : Address) (r : ReadResult 32) (h : Moves w s₀ s) :
    Moves w s₀ (heldFlagDone n a r s) := by
  unfold heldFlagDone
  cases r with
  | data b =>
    apply continueScan_moves
    show Moves w s₀ (if _ then _ else _)
    split
    · exact h.step (.slots s _)
    · exact h
  | error =>
    apply continueScan_moves
    exact raiseFault_moves _ _ h

/-! ## Completions of engine reads -/

theorem clearStallPort_moves (t : TrackId) (h : Moves w s₀ s) : Moves w s₀ (clearStallPort t s) := modTrack_moves _ _ h

theorem readFault_moves {n : Nat} (r : ReadResult n) (c : FaultContext) (h : Moves w s₀ s) : Moves w s₀ (readFault r c s) := by
  cases r with
  | data d => exact h
  | error => exact raiseFault_moves _ _ h

theorem headerDone_moves (t : TrackId) (a : Address) (p g : Word32) (r : ReadResult 256) (h : Moves w s₀ s) :
    Moves w s₀ (headerDone t a p g r s) := by
  have h1 := clearStallPort_moves t h
  unfold headerDone
  split
  · cases r with
    | error => exact raiseFault_moves _ _ (refuseEntry_moves t a false h1)
    | data d =>
      simp only []
      split
      · exact fetchNext_moves t (acceptHeader_moves t a _ _ _ h1)
      · exact raiseFault_moves _ _ (refuseEntry_moves t a _ h1)
  · exact readFault_moves _ _ h

theorem actionDone_moves (hw : w ≠ .part) (t : TrackId) (a : Address) (i : Nat) (p g : Word32) (r : ReadResult 256) (h : Moves w s₀ s) :
    Moves w s₀ (actionDone t a i p g r s) := by
  have h1 := modTrack_moves t (fun k => { k with cursor := i + 1 }) (clearStallPort_moves t h)
  unfold actionDone
  split
  · cases r with
    | error => exact resumeFetch_moves t (raiseFault_moves _ _ (countDropped_moves t a h1))
    | data d =>
      simp only []
      split
      · exact resumeFetch_moves t (raiseFault_moves _ _ (countDropped_moves t a h1))
      · split
        · exact insertAction_moves hw _ h1
        · exact resumeFetch_moves t (insertAction_moves hw _ h1)
  · exact readFault_moves _ _ h

theorem linkDone_moves (t : TrackId) (a : Address) (m : Bool) (p g : Word32) (r : ReadResult 64) (h : Moves w s₀ s) :
    Moves w s₀ (linkDone t a m p g r s) := by
  have h1 := clearStallPort_moves t h
  unfold linkDone
  simp only []
  split
  · cases r <;> simp only [] <;> split
    · exact resumeFetch_moves t (readFault_moves _ _ (startPass_moves t h1))
    · exact readFault_moves _ _ (takeLink_moves t _ h1)
    · exact resumeFetch_moves t (readFault_moves _ _ (startPass_moves t h1))
    · exact readFault_moves _ _ (takeLink_moves t _ h1)
  · exact readFault_moves _ _ h

/-! ## Completions of writes -/

theorem writeFault_moves (r : WriteResult) (c : FaultContext) (h : Moves w s₀ s) : Moves w s₀ (writeFault r c s) := by
  cases r with
  | stored => exact h
  | error => exact raiseFault_moves _ _ h

theorem captureDone_moves (p : ProbeId) (r : WriteResult) (h : Moves w s₀ s) : Moves w s₀ (captureDone p r s) := by
  have h1 := modWindow_moves p (fun w => { w with pending := w.pending - 1 }) (h.step (.captured s))
  unfold captureDone
  apply writeFault_moves
  show Moves w s₀ (if _ then _ else _)
  split
  · exact requestBucketSummary_moves p h1
  · exact h1

theorem bucketSummaryDone_moves (p : ProbeId) (r : WriteResult) (h : Moves w s₀ s) : Moves w s₀ (bucketSummaryDone p r s) := by
  have h1 := modWindow_moves p (fun w => { w with state := .free, owner := none }) h
  unfold bucketSummaryDone
  apply writeFault_moves
  show Moves w s₀ (if _ then _ else _)
  split
  · exact raiseAttention_moves _ h1
  · exact h1

theorem incidentDone_moves (n : SlotId) (a : Address) (r : WriteResult) (h : Moves w s₀ s) :
    Moves w s₀ (incidentDone n a r s) := by
  have h1 := h.step (.slots s (s.faults.slots.put n .held))
  cases r with
  | stored => exact h1
  | error => exact takeFault_moves _ _ _ (countLost_moves h1)

theorem retireDone_moves (t : TrackId) (a : Address) (r : WriteResult) (h : Moves w s₀ s) : Moves w s₀ (retireDone t a r s) :=
  writeFault_moves _ _ h

theorem resultDone_moves (a : Address) (r : WriteResult) (h : Moves w s₀ s) : Moves w s₀ (resultDone a r s) :=
  writeFault_moves _ _ (raiseAttention_moves _ h)

theorem summaryDone_moves (a : Address) (r : WriteResult) (h : Moves w s₀ s) : Moves w s₀ (summaryDone a r s) := by
  cases r with
  | stored => exact h
  | error => exact raiseFault_moves _ _ (modPort_moves _ h)

theorem statusDone_moves (t : TrackId) (a : Address) (r : WriteResult) (h : Moves w s₀ s) : Moves w s₀ (statusDone t a r s) := by
  cases r with
  | stored => exact h
  | error => exact raiseFault_moves _ _ (modPort_moves _ h)

/-! ## The arbiter -/

theorem failAccess_moves (x : PortAccess) (a : Address) (hw : w ≠ .part ∨ x.inArea = true) (h : Moves w s₀ s) :
    Moves w s₀ (failAccess x a s) := by
  unfold failAccess
  split
  · exact bucketSummaryDone_moves _ _ h
  · exact captureDone_moves _ _ h
  · exact incidentDone_moves _ _ _ h
  · exact headerDone_moves _ _ _ _ _ h
  · exact actionDone_moves (hw.resolve_right Bool.false_ne_true) _ _ _ _ _ _ h
  · exact linkDone_moves _ _ _ _ _ _ h
  · exact retireDone_moves _ _ _ h
  · exact slotReadFailed_moves _ h
  · exact descriptorDone_moves _ _ _ _ h
  · exact scanLinkDone_moves _ _ _ h
  · exact heldFlagDone_moves _ _ _ h
  · exact resultDone_moves _ _ h
  · exact summaryDone_moves _ _ h
  · exact statusDone_moves _ _ _ h

theorem serve_moves (n : Nat) (h : Moves w s₀ s) : Moves w s₀ (serve n s) := by
  induction n generalizing s with
  | zero => exact h
  | succ n ih =>
    unfold serve
    split
    · exact h
    · split
      · exact h
      · simp only []
        split
        · next ha => exact ih (failAccess_moves _ _ (.inr ha.1) (modPort_moves _ h))
        · exact modPort_moves _ (modPort_moves _ h)

theorem servePort_moves (h : Moves w s₀ s) : Moves w s₀ (servePort s) := serve_moves _ h

theorem landAccess_moves (f : InFlight) (b : Bool) (h : Moves .command s₀ s) : Moves .command s₀ (landAccess f b s) := by
  have h1 := modPort_moves (fun p => { p with inFlight := none }) h
  unfold landAccess
  simp only []
  split
  · exact h1.step (.store _ _ _)
  · exact h1

theorem abandonedRead_moves {n : Nat} (r : ReadResult n) (x : PortAccess) (a : Address) (h : Moves w s₀ s) :
    Moves w s₀ (abandonedRead r x a s) := by
  unfold abandonedRead
  split
  · split
    · exact h
    · exact readFault_moves _ _ h
  · exact h

theorem completeAccess_moves (e : PortAccess → Address → Option (State → State)) (b : Bool)
    (l : PortAccess → Address → State → State)
    (he : ∀ x a f u, e x a = some f → Moves .command s₀ u → Moves .command s₀ (f u))
    (hl : ∀ x a u, Moves .command s₀ u → Moves .command s₀ (l x a u)) (h : Moves .command s₀ s) :
    Moves .command s₀ (completeAccess e b s l) := by
  unfold completeAccess
  split
  · split
    · rename_i f _ g hg
      apply servePort_moves
      split
      · exact hl _ _ _ (landAccess_moves _ _ h)
      · exact he _ _ _ _ hg (landAccess_moves _ _ h)
    · exact h
  · exact h

end Sys2Proof.Machine.Laws
end

