-- ==== Sys2Proof/Laws/Reads.lean ====
section
/-! SUPPORT. The completions of an engine's reads, case by case: discarded, failed, and with a record. -/

namespace Sys2Proof.Machine.Laws

variable {t : TrackId} {a : Address} {s : State}

/-! ## Header -/

theorem headerDone_discarded {p g : Word32} {r : ReadResult 256} (h : headerTaken (s.tracks.get t) a g = false) :
    headerDone t a p g r s = readFault r (segmentContext t a p s.now) s := by
  unfold headerDone
  rw [h]
  rfl

theorem headerDone_error {p g : Word32} (h : headerTaken (s.tracks.get t) a g = true) :
    headerDone t a p g .error s =
      raiseFault .busRead (segmentContext t a p s.now)
        (refuseEntry t a false (withTrack t { s.tracks.get t with stallPort := false } s)) := by
  unfold headerDone
  rw [h]
  rfl

theorem headerDone_valid {p g : Word32} {b : BitVec 256} {m : AnchorMode} {l : LatePolicy}
    (h : headerTaken (s.tracks.get t) a g = true)
    (hv : headerValid (s.tracks.get t) a (Header.ofRecord b) = some (m, l)) :
    headerDone t a p g (.data b) s =
      fetchNext t (acceptHeader t a (Header.ofRecord b) m l
        (withTrack t { s.tracks.get t with stallPort := false } s)) := by
  have hv' : headerValid { s.tracks.get t with stallPort := false } a (Header.ofRecord b) = some (m, l) := hv
  unfold headerDone
  rw [h]
  simp only [if_true, clearStallPort, modTrack_eq, withTrack_get_self, hv']

theorem headerDone_invalid {p g : Word32} {b : BitVec 256} (h : headerTaken (s.tracks.get t) a g = true)
    (hv : headerValid (s.tracks.get t) a (Header.ofRecord b) = none) :
    headerDone t a p g (.data b) s =
      raiseFault .badSegment (segmentContext t a p s.now)
        (refuseEntry t a (writesRejected (s.tracks.get t) a)
          (withTrack t { s.tracks.get t with stallPort := false } s)) := by
  have hv' : headerValid { s.tracks.get t with stallPort := false } a (Header.ofRecord b) = none := hv
  unfold headerDone
  rw [h]
  simp only [if_true, clearStallPort, modTrack_eq, withTrack_get_self, hv']
  rfl

/-! ## Action -/

theorem actionDone_discarded {i : Nat} {p g : Word32} {r : ReadResult 256}
    (h : segmentTaken (s.tracks.get t) a g = false) :
    actionDone t a i p g r s = readFault r (actionContext t a i p 0 none s.now) s := by
  unfold actionDone
  rw [h]
  rfl

theorem actionDone_error {i : Nat} {p g : Word32} (h : segmentTaken (s.tracks.get t) a g = true) :
    actionDone t a i p g .error s =
      resumeFetch t (raiseFault .busRead (actionContext t a i p 0 none s.now)
        (countDropped t a (withTrack t { s.tracks.get t with stallPort := false, cursor := i + 1 } s))) := by
  unfold actionDone
  rw [h]
  simp only [if_true, clearStallPort, modTrack_eq, withTrack_get_self, withTrack_withTrack, withTrack_now]

theorem actionDone_bad {i : Nat} {p g : Word32} {b : BitVec 256} {f : FetchContext}
    (h : segmentTaken (s.tracks.get t) a g = true) (hf : (s.tracks.get t).fetch = some f)
    (hi : insertionOf t { s.tracks.get t with stallPort := false, cursor := i + 1 } f i b = none) :
    actionDone t a i p g (.data b) s =
      resumeFetch t (raiseFault .badAction (actionContext t a i p (badActionLanes b) (badActionProbe b) s.now)
        (countDropped t a (withTrack t { s.tracks.get t with stallPort := false, cursor := i + 1 } s))) := by
  have hb : ((s.tracks.get t).fetch.bind fun f =>
      insertionOf t { s.tracks.get t with stallPort := false, cursor := i + 1 } f i b) = none := by rw [hf]; exact hi
  unfold actionDone
  rw [h]
  simp only [if_true, clearStallPort, modTrack_eq, withTrack_get_self, withTrack_withTrack, withTrack_now, hb]

theorem actionDone_good {i : Nat} {p g : Word32} {b : BitVec 256} {f : FetchContext} {r : Insertion}
    (h : segmentTaken (s.tracks.get t) a g = true) (hf : (s.tracks.get t).fetch = some f)
    (hi : insertionOf t { s.tracks.get t with stallPort := false, cursor := i + 1 } f i b = some r) :
    actionDone t a i p g (.data b) s =
      let u := withTrack t { s.tracks.get t with stallPort := false, cursor := i + 1 } s
      if r.action.isAwait = true ∧ willDrop r u = false then insertAction r u else resumeFetch t (insertAction r u) := by
  have hb : ((s.tracks.get t).fetch.bind fun f =>
      insertionOf t { s.tracks.get t with stallPort := false, cursor := i + 1 } f i b) = some r := by rw [hf]; exact hi
  unfold actionDone
  rw [h]
  simp only [if_true, clearStallPort, modTrack_eq, withTrack_get_self, withTrack_withTrack, hb]

/-! ## Link word -/

theorem linkDone_discarded {m : Bool} {p g : Word32} {r : ReadResult 64}
    (h : segmentTaken (s.tracks.get t) a g = false) :
    linkDone t a m p g r s = readFault r (segmentContext t a p s.now) s := by
  unfold linkDone
  rw [h]
  rfl

/-- The value read; a failed read counts as 0 (R30). -/
theorem linkDone_taken {m : Bool} {p g : Word32} {r : ReadResult 64} (h : segmentTaken (s.tracks.get t) a g = true) :
    linkDone t a m p g r s =
      let u := withTrack t { s.tracks.get t with stallPort := false } s
      let v : Address := match r with | .data v => v | .error => 0
      if m = true ∧ v = 0 then resumeFetch t (readFault r (segmentContext t a p s.now) (startPass t u))
      else readFault r (segmentContext t a p s.now) (takeLink t v u) := by
  unfold linkDone
  rw [h]
  rfl

end Sys2Proof.Machine.Laws
end

