-- ==== Sys2Proof/Laws/Records.lean ====
section
/-! SUPPORT. The layout of a record: one that is written field after field has each field at its offset. -/

namespace Sys2Proof.Machine.Laws

theorem leBytes_length (n v : Nat) : (leBytes n v).length = n := by
  induction n generalizing v with
  | zero => rfl
  | succ n ih => exact congrArg (· + 1) (ih _)

/-- The bytes of a number give the number back, cut to their count (R181). -/
theorem leBytes_value (n v : Nat) :
    (leBytes n v).foldr (fun b w => b.toNat + 256 * w) 0 = v % 256 ^ n := by
  induction n generalizing v with
  | zero => simp [leBytes, Nat.mod_one]
  | succ n ih =>
    have pow : 256 ^ (n + 1) = 256 * 256 ^ n := Nat.pow_succ'
    rw [leBytes, List.foldr_cons, ih, BitVec.toNat_ofNat, pow]
    exact (Nat.mod_mul (x := v) (a := 256) (b := 256 ^ n)).symm

/-- Fields, each a size and a value, written one after another. -/
def fieldBytes (fs : List (Nat × Nat)) : List Byte := fs.flatMap fun f => leBytes f.1 f.2

theorem leBytes_eq_fieldBytes (n v : Nat) : leBytes n v = fieldBytes [(n, v)] := (List.append_nil _).symm

theorem fieldBytes_append (fs gs : List (Nat × Nat)) : fieldBytes fs ++ fieldBytes gs = fieldBytes (fs ++ gs) :=
  List.flatMap_append.symm

/-- The fields with their offsets, the first at `k`. -/
def placedFrom : Nat → List (Nat × Nat) → List (Nat × Nat × Nat)
  | _, [] => []
  | k, f :: fs => (k, f.1, f.2) :: placedFrom (k + f.1) fs

theorem fieldBytes_placed (pre : List Byte) (fs : List (Nat × Nat)) :
    ∀ x ∈ placedFrom pre.length fs, fieldIn (pre ++ fieldBytes fs) x.1 x.2.1 = x.2.2 % 256 ^ x.2.1 := by
  induction fs generalizing pre with
  | nil =>
    intro x hx
    exact absurd hx List.not_mem_nil
  | cons f fs ih =>
    intro x hx
    have e : fieldBytes (f :: fs) = leBytes f.1 f.2 ++ fieldBytes fs := List.flatMap_cons
    rw [e]
    rcases List.mem_cons.mp hx with h | h
    · subst h
      simp only [fieldIn, List.drop_left]
      rw [← leBytes_value, List.take_left' (leBytes_length _ _)]
    · rw [← List.append_assoc]
      apply ih (pre ++ leBytes f.1 f.2)
      rw [List.length_append, leBytes_length]
      exact h

/-- A record written field after field has the layout the sizes give. -/
theorem hasLayout_fieldBytes {fs : List (Nat × Nat)} {size : Nat} {fields : List (Nat × Nat × Nat)}
    (hs : (fs.map Prod.fst).sum = size) (hf : placedFrom 0 fs = fields) : HasLayout (fieldBytes fs) size fields := by
  subst hs hf
  refine ⟨?_, fieldBytes_placed [] fs⟩
  simp only [fieldBytes, List.length_flatMap, leBytes_length]

/-! The parts of the records, each as one field (R182). -/

theorem reservedBytes_eq (n : Nat) : reservedBytes n = leBytes n 0 := by
  unfold reservedBytes
  induction n with
  | zero => rfl
  | succ n ih =>
    rw [List.replicate_succ, ih, leBytes, Nat.zero_div]
    rfl

theorem indexByte_eq {n : Nat} (i : Option (Fin n)) : indexByte i = leBytes 1 (indexOrFF i) := by
  cases i <;> rfl

theorem actionByte_eq (i : Option Nat) : actionByte i = leBytes 1 (i.getD 0xFF) := by
  cases i <;> rfl

theorem wordOrZero_eq (a : Option Word64) : wordOrZero a = leBytes 8 (wordOr0 a) := by
  cases a <;> rfl

end Sys2Proof.Machine.Laws
end

