-- ==== Sys2Proof/Laws/Ticks.lean ====
section
/-! SUPPORT. The events of a tick: where the count stands still, where nothing is owed, and what the LANE pins then show. -/

namespace Sys2Proof.Machine.Laws

theorem foldl_same {α β : Type} {f : β → α → β} {s : β} (L : List α) (h : ∀ a ∈ L, f s a = s) : L.foldl f s = s := by
  induction L with
  | nil => rfl
  | cons a L ih =>
    rw [List.foldl_cons, h a List.mem_cons_self]
    exact ih fun b hb => h b (List.mem_cons_of_mem _ hb)

theorem tickEvent_counting (f : State → State) {s : State} (h : s.counting = true) : tickEvent f s = servePort (f s) :=
  if_pos h

/-- While the count stands still no event comes of it (R1, R12). -/
theorem tickEvent_still (f : State → State) {s : State} (h : s.counting = false) : tickEvent f s = s :=
  if_neg (by simp [h])

theorem tickEvent_same {f : State → State} {s : State} (hp : PortQuiet s) (hf : f s = s) : tickEvent f s = s := by
  unfold tickEvent
  rw [hf, servePort_quiet hp]
  exact ite_self s

theorem foldl_tickEvent {α : Type} (L : List α) {f : α → State → State} {s : State} (h : ∀ a, tickEvent (f a) s = s) :
    L.foldl (fun s a => tickEvent (f a) s) s = s :=
  foldl_same L fun a _ => h a

theorem takeTickEvents_still {s : State} (h : s.counting = false) : takeTickEvents s = s := by
  unfold takeTickEvents
  rw [foldl_tickEvent allLanes (f := returnEdgeEvent) fun _ => tickEvent_still _ h]
  simp only
  rw [tickEvent_still dispatchEvent h, foldl_tickEvent allProbes (f := deadlineEvent) fun _ => tickEvent_still _ h,
    foldl_tickEvent allProbes (f := timeoutEvent) fun _ => tickEvent_still _ h,
    foldl_tickEvent allProbes (f := fun p => handEdge p .windowThenListener) fun _ => tickEvent_still _ h,
    tickEvent_still boundaryEvent h, tickEvent_still takeOutcomes h]

/-! Each event where the tick owes none of its kind. -/

theorem expire_before {now : Instant} {k : Lane} (h : ∀ r, k.returnEdge = some r → now < r.instant) :
    Lane.expire now k = k := by
  unfold Lane.expire
  cases hr : k.returnEdge with
  | none => rfl
  | some r => exact if_neg (by rw [BitVec.not_le]; exact h r hr)

theorem returnEdgeEvent_before {l : LaneId} {s : State}
    (h : ∀ r, (s.lanes.get l).returnEdge = some r → s.now < r.instant) : returnEdgeEvent l s = s := by
  show { s with lanes := s.lanes.put l (Lane.expire s.now (s.lanes.get l)) } = s
  rw [expire_before h, put_get_self]

theorem dispatchEvent_before {s : State} (h : ∀ e es, s.queue.entries = e :: es → s.now < e.due) : dispatchEvent s = s := by
  unfold dispatchEvent
  cases he : s.queue.entries with
  | nil => rfl
  | cons e es =>
    show dispatchDue (es.length + 1) s = s
    unfold dispatchDue
    rw [he]
    exact if_neg (by rw [BitVec.not_le]; exact h e es he)

theorem deadlineEvent_before {p : ProbeId} {s : State}
    (h : (s.probes.windows.get p).state = .isOpen → reached (s.probes.windows.get p).deadline s.now = false) :
    deadlineEvent p s = s := by
  unfold deadlineEvent
  exact if_neg fun ⟨ho, hr⟩ => by rw [h ho] at hr; cases hr

theorem timeoutEvent_before {p : ProbeId} {s : State}
    (h : (s.probes.listeners.get p).armed = true → reached (s.probes.listeners.get p).timeout s.now = false) :
    timeoutEvent p s = s := by
  unfold timeoutEvent
  exact if_neg fun ⟨ho, hr⟩ => by rw [h ho] at hr; cases hr

theorem handWindowEdge_none {p : ProbeId} {s : State} (h : (s.probes.detectors.get p).windowEdge = none) :
    handWindowEdge p s = s := by
  unfold handWindowEdge
  rw [h]

theorem handListenerEdge_none {p : ProbeId} {s : State} (h : (s.probes.detectors.get p).listenerEdge = none) :
    handListenerEdge p s = s := by
  unfold handListenerEdge
  rw [h]

/-- Where the present tick owes no event, what is left of it are the await outcomes on their way (R26, R106). -/
theorem takeTickEvents_outcomes {s : State} (h : NoEventOwed s) : takeTickEvents s = tickEvent takeOutcomes s := by
  obtain ⟨entries, edges, deadlines, timeouts, seen, boundary, quiet⟩ := h
  unfold takeTickEvents
  rw [foldl_tickEvent allLanes (f := returnEdgeEvent)
    fun l => tickEvent_same quiet (returnEdgeEvent_before (edges l))]
  simp only
  rw [tickEvent_same quiet (dispatchEvent_before entries),
    foldl_tickEvent allProbes (f := deadlineEvent) fun p => tickEvent_same quiet (deadlineEvent_before (deadlines p)),
    foldl_tickEvent allProbes (f := timeoutEvent) fun p => tickEvent_same quiet (timeoutEvent_before (timeouts p)),
    foldl_tickEvent allProbes (f := fun p => handEdge p .windowThenListener) fun p => tickEvent_same quiet (by
      show handListenerEdge p (handWindowEdge p s) = s
      rw [handWindowEdge_none (seen p).1, handListenerEdge_none (seen p).2]),
    tickEvent_same (f := boundaryEvent) quiet (if_neg (by simp [boundary]))]

theorem takeOutcomes_none {s : State} (h : ∀ t, (s.tracks.get t).outcome = none) : takeOutcomes s = s :=
  foldl_same allTracks fun t _ => takeOutcome_none (h t)

/-- Where the present tick owes nothing, nothing is taken. -/
theorem takeTickEvents_nothing {s : State} (h : NothingOwed s) : takeTickEvents s = s := by
  obtain ⟨h, none⟩ := h
  rw [takeTickEvents_outcomes h]
  exact tickEvent_same h.2.2.2.2.2.2 (takeOutcomes_none none)

/-! ## The LANE pins (R66) -/

theorem tickPin_settled {s : State} {l : LaneId} (h : takeTickEvents s = s) : tickPin s l = lanePin s l := by
  unfold tickPin lanePin
  rw [h]

/-- While the device counts, RESET_N is high. -/
theorem counting_high {s : State} (h : s.counting = true) : s.control.resetLow = false := by
  unfold State.counting at h
  cases hl : s.control.resetLow
  · rfl
  · rw [hl] at h
    simp at h

theorem pinRun_leaves {l : LaneId} {c : Instr} {cs : List Instr} {s t : State} (h : exec c s = .next t)
    (hl : leavesTick c s = true) : pinRun l (c :: cs) s = tickPin s l :: pinRun l cs t := by
  rw [pinRun, h]
  exact if_pos hl

theorem pinRun_stays {l : LaneId} {c : Instr} {cs : List Instr} {s t : State} (h : exec c s = .next t)
    (hl : leavesTick c s = false) : pinRun l (c :: cs) s = pinRun l cs t := by
  rw [pinRun, h]
  exact if_neg (by simp [hl])

end Sys2Proof.Machine.Laws
end

