-- ==== Sys2Proof/Laws/Scan.lean ====
section
/-! SUPPORT. The scan: the slots it remembers, its end, and what follows where a scan is pending. -/

namespace Sys2Proof.Machine.Laws

/-- The slots a scan remembers are those that are HELD (R137). -/
theorem heldSlots_isHeldSet (s : State) : IsHeldSet s (heldSlots s) := by
  have bit : ∀ n x : SlotId, (1#32 <<< x.val).getLsbD n.val = decide (n = x) := by decide
  have all : ∀ n : SlotId, n ∈ allSlots := by decide
  have fold : ∀ (L : List SlotId) (b : BitVec 32) (n : SlotId),
      (L.foldl (fun b n => if s.faults.slots.get n = .held then b ||| (1#32 <<< n.val) else b) b).getLsbD n.val = true ↔
        b.getLsbD n.val = true ∨ n ∈ L ∧ s.faults.slots.get n = .held := by
    intro L
    induction L with
    | nil => simp
    | cons x L ih =>
      intro b n
      rw [List.foldl_cons, ih]
      by_cases hn : n = x
      · subst hn
        split <;> simp_all
      · split
        · rw [BitVec.getLsbD_or, bit, decide_eq_false hn, Bool.or_false]
          simp [hn]
        · simp [hn]
  intro n
  unfold heldSlots
  rw [fold]
  simp [all n]

/-- A result is outstanding when it waits in class 5 or is in flight (log 13). -/
theorem resultOutstanding_iff (s : State) :
    resultOutstanding s = true ↔
      (∃ r, .result r ∈ s.port.out) ∨ ∃ f r, s.port.inFlight = some f ∧ f.access = .out (.result r) := by
  have isResult : ∀ w : OutWrite, w.isResult = true ↔ ∃ r, w = .result r := by
    intro w
    cases w <;> simp [OutWrite.isResult]
  unfold resultOutstanding
  rw [Bool.or_eq_true, List.any_eq_true]
  refine or_congr ?_ ?_
  · constructor
    · rintro ⟨w, hw, hr⟩
      obtain ⟨r, rfl⟩ := (isResult w).mp hr
      exact ⟨r, hw⟩
    · rintro ⟨r, hr⟩
      exact ⟨_, hr, rfl⟩
  · cases s.port.inFlight with
    | none => simp
    | some f =>
      cases hf : f.access <;> simp [hf, isResult]

/-! ## The writes at a scan's end -/

/-- What the forming of a summary or a status leaves alone, and the results it neither adds nor takes away. -/
structure OutFormed (s u : State) : Prop where
  tracks : u.tracks = s.tracks
  faults : u.faults = s.faults
  scanner : u.scanner = s.scanner
  control : u.control = s.control
  queue : u.queue = s.queue
  inFlight : u.port.inFlight = s.port.inFlight
  results : ∀ r, .result r ∈ u.port.out ↔ .result r ∈ s.port.out

theorem OutFormed.refl (s : State) : OutFormed s s := ⟨rfl, rfl, rfl, rfl, rfl, rfl, fun _ => Iff.rfl⟩

theorem OutFormed.trans {s u v : State} (h : OutFormed s u) (g : OutFormed u v) : OutFormed s v :=
  ⟨g.tracks.trans h.tracks, g.faults.trans h.faults, g.scanner.trans h.scanner, g.control.trans h.control,
    g.queue.trans h.queue, g.inFlight.trans h.inFlight, fun r => (g.results r).trans (h.results r)⟩

theorem formSummary_formed (s : State) : OutFormed s (formSummary s) := by
  unfold formSummary State.modPort
  simp only
  split
  · refine ⟨rfl, rfl, rfl, rfl, rfl, rfl, fun r => ?_⟩
    simp only [List.mem_map]
    constructor
    · rintro ⟨w, hw, h⟩
      cases w <;> cases h
      exact hw
    · exact fun h => ⟨_, h, rfl⟩
  · exact ⟨rfl, rfl, rfl, rfl, rfl, rfl, fun r => by simp⟩

theorem formStatus_formed (t : TrackId) (s : State) : OutFormed s (formStatus t s) := by
  unfold formStatus State.modPort
  simp only
  split
  · refine ⟨rfl, rfl, rfl, rfl, rfl, rfl, fun r => ?_⟩
    simp only [List.mem_map]
    constructor
    · rintro ⟨w, hw, h⟩
      cases w with
      | result x =>
        cases h
        exact hw
      | summary g n i => cases h
      | status x j =>
        simp only [OutWrite.refreshStatus] at h
        split at h <;> exact absurd h (by simp)
    · exact fun h => ⟨_, h, rfl⟩
  · exact ⟨rfl, rfl, rfl, rfl, rfl, rfl, fun r => by simp⟩

/-- The status writes of a scan's end (R143). -/
theorem foldl_status_formed (L : List TrackId) (s : State) :
    let u := L.foldl (fun s t => if s.port.lastStatus.get t = some (statusImage (s.tracks.get t)) then s else formStatus t s) s
    OutFormed s u ∧ u.port.lastSummary = s.port.lastSummary ∧
      ∀ t, t ∈ L ∨ s.port.lastStatus.get t = some (statusImage (s.tracks.get t)) →
        u.port.lastStatus.get t = some (statusImage (u.tracks.get t)) := by
  induction L generalizing s with
  | nil => exact ⟨OutFormed.refl s, rfl, fun t h => h.resolve_left List.not_mem_nil⟩
  | cons x L ih =>
    simp only [List.foldl_cons]
    split
    · next hx =>
      obtain ⟨h1, h2, h3⟩ := ih s
      refine ⟨h1, h2, fun t ht => h3 t ?_⟩
      rcases ht with ht | ht
      · rcases List.mem_cons.mp ht with rfl | ht
        · exact .inr hx
        · exact .inl ht
      · exact .inr ht
    · obtain ⟨h1, h2, h3⟩ := ih (formStatus x s)
      refine ⟨(formStatus_formed x s).trans h1, h2, fun t ht => h3 t ?_⟩
      by_cases he : x = t
      · subst he
        exact .inr (by simp [formStatus, State.modPort])
      · rcases ht with ht | ht
        · exact .inl ((List.mem_cons.mp ht).resolve_left (Ne.symm he))
        · exact .inr (by simpa [formStatus, State.modPort, he] using ht)

/-- The status writes are those that differ before any of them is formed. -/
theorem foldl_status_eq (L : List TrackId) (hL : L.Nodup) (s u : State) (ht : u.tracks = s.tracks)
    (hs : ∀ t ∈ L, u.port.lastStatus.get t = s.port.lastStatus.get t) :
    L.foldl (fun s t => if s.port.lastStatus.get t = some (statusImage (s.tracks.get t)) then s else formStatus t s) u =
      L.foldl (fun u t => if s.port.lastStatus.get t = some (statusImage (s.tracks.get t)) then u else formStatus t u) u := by
  induction L generalizing u with
  | nil => rfl
  | cons x L ih =>
    rw [List.nodup_cons] at hL
    rw [List.foldl_cons, List.foldl_cons, hs x List.mem_cons_self, ht]
    apply ih hL.2
    · split
      · exact ht
      · exact ht
    · intro t hx
      have ne : x ≠ t := fun e => hL.1 (e ▸ hx)
      split
      · exact hs t (List.mem_cons_of_mem _ hx)
      · simpa [formStatus, State.modPort, ne] using hs t (List.mem_cons_of_mem _ hx)

theorem formSummary_lastStatus (s : State) : (formSummary s).port.lastStatus = s.port.lastStatus := by
  unfold formSummary State.modPort
  simp only
  split <;> rfl

theorem finishScan_eq (s : State) : finishScan s = scanEnded s := by
  have e : summaryImage { s with scanner := { s.scanner with scan := none } } = summaryImage s := rfl
  unfold finishScan formScanWrites scanEnded
  simp only [e]
  split
  · exact foldl_status_eq allTracks (by decide) s _ rfl fun _ _ => rfl
  · exact foldl_status_eq allTracks (by decide) s _ (formSummary_formed _).tracks
      fun t _ => by rw [formSummary_lastStatus]

theorem foldl_status_image (L : List TrackId) (s : State) :
    summaryImage (L.foldl (fun s t =>
      if s.port.lastStatus.get t = some (statusImage (s.tracks.get t)) then s else formStatus t s) s) = summaryImage s := by
  induction L generalizing s with
  | nil => rfl
  | cons x L ih =>
    rw [List.foldl_cons, ih]
    split <;> rfl

/-- After a scan's end every image is the last one written (R136, R142, R143). -/
theorem scanEnded_spec (s : State) :
    OutFormed { s with scanner := { s.scanner with scan := none } } (scanEnded s) ∧
      (scanEnded s).port.lastSummary = some (summaryImage (scanEnded s)) ∧
      ∀ t, (scanEnded s).port.lastStatus.get t = some (statusImage ((scanEnded s).tracks.get t)) := by
  have all : ∀ t : TrackId, t ∈ allTracks := by decide
  rw [← finishScan_eq]
  unfold finishScan formScanWrites
  generalize { s with scanner := { s.scanner with scan := none } } = e
  simp only
  generalize hv : (if e.port.lastSummary = some (summaryImage e) then e else formSummary e) = v
  obtain ⟨h1, h2, h3⟩ := foldl_status_formed allTracks v
  have hi := foldl_status_image allTracks v
  generalize allTracks.foldl (fun s t =>
    if s.port.lastStatus.get t = some (statusImage (s.tracks.get t)) then s else formStatus t s) v = u at *
  have formed : OutFormed e v ∧ v.port.lastSummary = some (summaryImage v) := by
    subst hv
    split
    · next hs => exact ⟨OutFormed.refl e, hs⟩
    · exact ⟨formSummary_formed e, (formSummary_spec e).2.2⟩
  exact ⟨formed.1.trans h1, by rw [h2, hi, formed.2], fun t => h3 t (.inl (all t))⟩

/-- Where no image differs, a scan's end writes nothing (R136). -/
theorem scanEnded_same {s : State} (hs : s.port.lastSummary = some (summaryImage s))
    (ht : ∀ t, s.port.lastStatus.get t = some (statusImage (s.tracks.get t))) :
    scanEnded s = { s with scanner := { s.scanner with scan := none } } := by
  unfold scanEnded
  have e : summaryImage { s with scanner := { s.scanner with scan := none } } = summaryImage s := rfl
  simp only [hs, if_true]
  exact foldl_same _ fun t _ => if_pos (ht t)

end Sys2Proof.Machine.Laws
end

