-- ==== Sys2Proof/Laws/Slot.lean ====
section
/-! SUPPORT. The completion of the directive slot read, case by case, and the effects of an accepted drain and abort up to
their shared operations. -/

namespace Sys2Proof.Machine.Laws

variable {s : State} {a : Address} {d : DirectiveSlot}

theorem slotCompletes_flight (hf : InFlightIs s (.scan .directiveSlot) a) :
    slotCompletes d s = servePort (slotReadDone d (released s)) := by
  unfold slotCompletes
  rw [completeAccess_taken hf rfl]
  rfl

/-- A slot with number 0, or the last one seen, is not taken (R138). -/
theorem slotReadDone_old (h : d.sequence = 0 ∨ d.sequence = s.directives.lastSeen) :
    servePort (slotReadDone d s) = scanGoesOn s := by
  have ht : slotTaken d s = false := by
    rcases h with h | h <;> simp [slotTaken, h]
  unfold slotReadDone
  rw [ht]
  rfl

theorem slotTaken_of (h0 : d.sequence ≠ 0) (h1 : d.sequence ≠ s.directives.lastSeen) : slotTaken d s = true := by
  unfold slotTaken
  rw [beq_false_of_ne h0, beq_false_of_ne h1]
  rfl

/-- A taken slot whose directive has no descriptor to read is executed, and the scan goes on (R138, R139). -/
theorem slotReadDone_executes (h0 : d.sequence ≠ 0) (h1 : d.sequence ≠ s.directives.lastSeen)
    (hk : d.kind.toNat ≠ 1 ∨ 8 ≤ d.arg1.toNat) :
    servePort (slotReadDone d (released s)) = scanGoesOn (executeDirective d (slotTakenState d.sequence s)) := by
  have hn : (if d.kind.toNat = 1 then indexIn 8 d.arg1.toNat else none) = none := by
    rcases hk with hk | hk
    · exact if_neg hk
    · split
      · exact dif_neg (by omega)
      · rfl
  unfold slotReadDone
  rw [slotTaken_of (s := released s) h0 h1]
  unfold takeSlot
  simp only [hn]
  rfl

/-- A taken START_TRACK in range has its descriptor read (R139). -/
theorem slotReadDone_start (h0 : d.sequence ≠ 0) (h1 : d.sequence ≠ s.directives.lastSeen) (hk : d.kind.toNat = 1)
    {t : TrackId} (ht : d.arg1.toNat = t.val) :
    slotReadDone d (released s) = requestScanRead (.descriptor t d.sequence) (slotTakenState d.sequence s) := by
  have hn : (if d.kind.toNat = 1 then indexIn 8 d.arg1.toNat else none) = some t := by
    rw [if_pos hk, indexIn, dif_pos (by omega)]
    exact congrArg some (Fin.ext ht)
  unfold slotReadDone
  rw [slotTaken_of (s := released s) h0 h1]
  unfold takeSlot
  simp only [hn]
  rfl

/-- While a drain is in progress a directive is OVERLAP, but an ABORT_TRACK of its track (R153). -/
theorem executeDirective_overlap {r : Drain} (h : s.directives.drain = some r)
    (hk : d.kind.toNat ≠ 3 ∨ d.arg1.toNat ≠ r.track.val) :
    executeDirective d s = withResult d.sequence .overlap (r.sequence.setWidth 32) s := by
  have ho : overlapping d s = some r := by
    unfold overlapping
    rw [h]
    exact if_neg (by rintro ⟨h1, h2⟩; rcases hk with hk | hk; exacts [hk h1, hk h2])
  unfold executeDirective
  simp only [ho, answer, formResult_eq]
  congr 1
  apply BitVec.eq_of_toNat_eq
  simp

theorem overlapping_none (h : s.directives.drain = none) : overlapping d s = none := by
  unfold overlapping
  rw [h]

/-- An ABORT_TRACK of the draining track is no OVERLAP (R153). -/
theorem overlapping_abort {r : Drain} (h : s.directives.drain = some r) (hk : d.kind.toNat = 3)
    (ht : d.arg1.toNat = r.track.val) : overlapping d s = none := by
  unfold overlapping
  rw [h]
  exact if_pos ⟨hk, ht⟩

theorem indexIn_some {n : Nat} {i : Fin n} {k : Nat} (h : k = i.val) : indexIn n k = some i := by
  subst h
  exact dif_pos i.isLt

theorem indexIn_none {n k : Nat} (h : n ≤ k) : indexIn n k = none := dif_neg (by omega)

end Sys2Proof.Machine.Laws
end

