-- ==== Sys2Proof/Laws/StepMoves.lean ====
section
/-! SUPPORT. The primitive changes of every command and of a step. -/

namespace Sys2Proof.Machine.Laws

variable {w : Scope} {s₀ s : State}

theorem respond_moves (r : Response) (h : Moves .command s₀ s) : Moves .command s₀ (respond r s) := h.step (.response s _)

/-- An access of the register window: an error response, or the effect, taken while RESET_N is high. -/
theorem hostAccess_moves (r : Response) (f : State → State) {t : State}
    (hf : s.control.resetLow = false → Moves .command s (f s)) (ht : hostAccess r f s = .next t) : Moves .command s t := by
  unfold hostAccess at ht
  split at ht
  · cases ht; exact respond_moves _ .refl
  · rename_i hl
    cases ht
    exact respond_moves _ (hf (by simpa using hl))

/-! ## RUN, STOP, SCAN -/

theorem takeReferences_moves (pins : Word16) (h : Moves .command s₀ s) : Moves .command s₀ (takeReferences pins s) :=
  (h.step (.boundary s _)).step (.detectors _ _)

theorem dropTickEvents_moves (h : Moves .command s₀ s) : Moves .command s₀ (dropTickEvents s) :=
  (h.step (.boundary s _)).step (.detectors _ _)

theorem acceptRun_moves (h : Moves .command s₀ s)
    (hd : s.control.device ≠ .stopped ∨ (s.control.anchor ≠ 0 ∧ s.control.resetLow = false)) :
    Moves .command s₀ (acceptRun s) :=
  scanTrigger_moves (formSummary_moves ((h.step (.device s .running (Or.inr hd))).step (.runRefused _ false)))

theorem runCommand_moves (pins : Word16) (h : Moves .command s₀ s) (hl : s.control.resetLow = false) :
    Moves .command s₀ (runCommand pins s) := by
  unfold runCommand
  split
  · split
    · exact h.step (.runRefused s _)
    · rename_i ha
      exact acceptRun_moves (takeReferences_moves pins h) (Or.inr ⟨ha, hl⟩)
  · exact h
  · rename_i hd
    split
    · exact h.step (.runRefused s _)
    · exact acceptRun_moves h (Or.inl (by simp [hd]))

theorem abortAll_moves (h : Moves w s₀ s) : Moves w s₀ (abortAll s) := by
  refine foldl_moves _ (fun u t hu => ?_) _ h
  show Moves w s₀ (if _ then _ else _)
  split
  · exact abortTrack_moves t _ _ hu
  · exact hu

theorem stopCommand_moves (h : Moves .command s₀ s) : Moves .command s₀ (stopCommand s) := by
  have h1 := formSummary_moves (abortAll_moves (dropTickEvents_moves
    ((h.step (.device s .stopped (Or.inl rfl))).step (.runRefused _ false))))
  unfold stopCommand
  split
  · exact h
  · exact h1
  · exact h1

theorem scanCommand_moves (h : Moves .command s₀ s) : Moves .command s₀ (scanCommand s) := scanTrigger_moves (h.step (.runRefused s _))

theorem controlWrite_moves (f : State → State) {t : State} (hf : s.control.resetLow = false → Moves .command s (f s))
    (ht : controlWrite f s = .next t) : Moves .command s t :=
  hostAccess_moves .written (fun s => servePort (f s)) (fun hl => servePort_moves (hf hl)) ht

/-! ## Ticks -/

theorem tickEvent_moves (f : State → State) (hf : ∀ u, Moves w s₀ u → Moves w s₀ (f u)) (h : Moves w s₀ s) :
    Moves w s₀ (tickEvent f s) := by
  unfold tickEvent
  split
  · exact servePort_moves (hf s h)
  · exact h

theorem boundaryEvent_moves (h : Moves w s₀ s) : Moves w s₀ (boundaryEvent s) := by
  unfold boundaryEvent
  split
  · exact frameTrigger_moves (h.step (.boundary s _))
  · exact h

theorem takeOutcomes_moves (h : Moves w s₀ s) : Moves w s₀ (takeOutcomes s) :=
  foldl_moves _ (fun _ t hu => takeOutcome_moves t hu) _ h

theorem takeTickEvents_moves (h : Moves w s₀ s) : Moves w s₀ (takeTickEvents s) := by
  unfold takeTickEvents
  apply tickEvent_moves _ (fun u hu => takeOutcomes_moves hu)
  apply tickEvent_moves _ (fun u hu => boundaryEvent_moves hu)
  apply foldl_moves _ (fun u p hu => tickEvent_moves _ (fun v hv => handEdge_moves p _ hv) hu)
  apply foldl_moves _ (fun u p hu => tickEvent_moves _ (fun v hv => timeoutEvent_moves p hv) hu)
  apply foldl_moves _ (fun u p hu => tickEvent_moves _ (fun v hv => deadlineEvent_moves p hv) hu)
  apply tickEvent_moves _ (fun u hu => dispatchEvent_moves hu)
  exact foldl_moves _ (fun u l hu => tickEvent_moves _ (fun v hv => returnEdgeEvent_moves l hv) hu) _ h

theorem advance_moves (pins : Word16) (h : Moves .command s₀ s) : Moves .command s₀ (advance pins s) :=
  ((h.step (.count s _)).step (.boundary _ _)).step (.detectors _ _)

/-! ## Completions -/

theorem slotCompletes_moves (d : DirectiveSlot) (h : Moves .command s₀ s) : Moves .command s₀ (slotCompletes d s) := by
  refine completeAccess_moves _ _ _ (fun x a f u hx hu => ?_) (fun _ _ _ hu => hu) h
  split at hx
  · cases hx; exact slotReadDone_moves d hu
  · cases hx

theorem slotFails_moves (h : Moves .command s₀ s) : Moves .command s₀ (slotFails s) := by
  refine completeAccess_moves _ _ _ (fun x a f u hx hu => ?_) (fun x a _ => abandonedRead_moves _ x a) h
  split at hx
  · cases hx; exact slotReadFailed_moves a hu
  · cases hx

/-! ## ANCHOR -/

theorem low_bits_of_lo (a : Address) (v : Word32) :
    (a.extractLsb' 32 32 ++ v.extractLsb' 11 21 ++ 0#11 : BitVec 64).setWidth 11 = 0#11 := by
  apply BitVec.eq_of_getLsbD_eq
  intro i hi
  rw [BitVec.getLsbD_setWidth]
  refine (congrArg _ (BitVec.getLsbD_append (x := a.extractLsb' 32 32 ++ v.extractLsb' 11 21) (y := 0#11))).trans ?_
  simp [hi]

theorem low_bits_of_hi (a : Address) (v : Word32) (h : a.setWidth 11 = 0#11) :
    (v ++ a.extractLsb' 0 32 : BitVec 64).setWidth 11 = 0#11 := by
  apply BitVec.eq_of_getLsbD_eq
  intro i hi
  have h1 := congrArg (fun x => x.getLsbD i) h
  have h2 : i < 32 := by omega
  rw [BitVec.getLsbD_setWidth]
  refine (congrArg _ (BitVec.getLsbD_append (x := v) (y := a.extractLsb' 0 32))).trans ?_
  simpa [hi, h2] using h1

/-! ## exec and step -/

/-- Whatever a command does is made of primitive changes. -/
theorem exec_moves (c : Instr) {t : State} (ht : exec c s = .next t) : Moves .command s t := by
  cases c with
  | frameBoundary => cases ht; exact tickEvent_moves _ (fun u hu => boundaryEvent_moves hu) .refl
  | probeEdge p o => cases ht; exact tickEvent_moves _ (fun u hu => handEdge_moves p o hu) .refl
  | dispatchEvent => cases ht; exact tickEvent_moves _ (fun u hu => dispatchEvent_moves hu) .refl
  | returnEdgeExpiry l => cases ht; exact tickEvent_moves _ (fun u hu => returnEdgeEvent_moves l hu) .refl
  | deadlineExpiry p => cases ht; exact tickEvent_moves _ (fun u hu => deadlineEvent_moves p hu) .refl
  | timeoutExpiry p => cases ht; exact tickEvent_moves _ (fun u hu => timeoutEvent_moves p hu) .refl
  | timeLoRead =>
    have h : execTimeLoRead s = .next t := ht
    unfold execTimeLoRead at h
    exact hostAccess_moves _ _ (fun _ => .single (.latch s _)) h
  | run pins => exact controlWrite_moves _ (fun hl => runCommand_moves pins .refl hl) ht
  | stop => exact controlWrite_moves _ (fun _ => stopCommand_moves .refl) ht
  | scan => exact controlWrite_moves _ (fun _ => scanCommand_moves .refl) ht
  | reset => exact controlWrite_moves _ (fun _ => .single (.reset s _ _ (Or.inl rfl))) ht
  | anchorLoWrite v =>
    have h : execAnchorLoWrite v s = .next t := ht
    unfold execAnchorLoWrite at h
    refine hostAccess_moves _ _ (fun _ => ?_) h
    split
    · rename_i hd
      exact .single (.anchor s _ hd fun _ => low_bits_of_lo _ _)
    · exact .refl
  | anchorHiWrite v =>
    have h : execAnchorHiWrite v s = .next t := ht
    unfold execAnchorHiWrite at h
    refine hostAccess_moves _ _ (fun _ => ?_) h
    split
    · rename_i hd
      exact .single (.anchor s _ hd fun h => low_bits_of_hi _ _ h)
    · exact .refl
  | attentionWrite v =>
    have h : execAttentionWrite v s = .next t := ht
    unfold execAttentionWrite at h
    exact hostAccess_moves _ _ (fun _ => .single (.attention s _)) h
  | attnEnableWrite v =>
    have h : execAttnEnableWrite v s = .next t := ht
    unfold execAttnEnableWrite at h
    exact hostAccess_moves _ _ (fun _ => .single (.enable s _)) h
  | registerWriteNoEffect r v => exact hostAccess_moves _ _ (fun _ => .refl) ht
  | badRegisterAccess a => exact hostAccess_moves _ _ (fun _ => .refl) ht
  | powerOnReset p =>
    cases p with
    | low =>
      cases ht
      exact (((Moves.step .refl (.reset s 0 0 (Or.inr rfl))).step (.resetLine _ true (fun _ => rfl))).step
        (.response _ none))
    | high => cases ht; exact .single (.resetLine s false (by simp))
  | startTrack r =>
    cases ht
    refine completeAccess_moves _ _ _ (fun x a f u hx hu => ?_) (fun x a _ => abandonedRead_moves _ x a) .refl
    split at hx
    · cases hx; exact descriptorDone_moves _ _ _ _ hu
    · cases hx
  | drainTrack n t => cases ht; exact slotCompletes_moves _ .refl
  | abortTrack n t => cases ht; exact slotCompletes_moves _ .refl
  | clearTrack n t => cases ht; exact slotCompletes_moves _ .refl
  | setGang n g l => cases ht; exact slotCompletes_moves _ .refl
  | configureLane n l v => cases ht; exact slotCompletes_moves _ .refl
  | setFaultPolicy n k c m => cases ht; exact slotCompletes_moves _ .refl
  | ackFaults n k => cases ht; exact slotCompletes_moves _ .refl
  | loadTime n v => cases ht; exact slotCompletes_moves _ .refl
  | setFrame n f => cases ht; exact slotCompletes_moves _ .refl
  | headerReadDone r =>
    cases ht
    refine completeAccess_moves _ _ _ (fun x a f u hx hu => ?_) (fun _ _ _ hu => hu) .refl
    split at hx
    · cases hx; exact headerDone_moves _ _ _ _ _ hu
    · cases hx
  | actionReadDone r =>
    cases ht
    refine completeAccess_moves _ _ _ (fun x a f u hx hu => ?_) (fun _ _ _ hu => hu) .refl
    split at hx
    · cases hx; exact actionDone_moves (by decide) _ _ _ _ _ _ hu
    · cases hx
  | linkWordReadDone r =>
    cases ht
    refine completeAccess_moves _ _ _ (fun x a f u hx hu => ?_) (fun _ _ _ hu => hu) .refl
    split at hx
    · cases hx; exact linkDone_moves _ _ _ _ _ _ hu
    · cases hx
  | scanLinkReadDone r =>
    cases ht
    refine completeAccess_moves _ _ _ (fun x a f u hx hu => ?_) (fun x a _ => abandonedRead_moves _ x a) .refl
    split at hx
    · cases hx; exact scanLinkDone_moves _ _ _ hu
    · cases hx
  | heldFlagReadDone r =>
    cases ht
    refine completeAccess_moves _ _ _ (fun x a f u hx hu => ?_) (fun x a _ => abandonedRead_moves _ x a) .refl
    split at hx
    · cases hx; exact heldFlagDone_moves _ _ _ hu
    · cases hx
  | retireWriteDone r =>
    cases ht
    refine completeAccess_moves _ _ _ (fun x a f u hx hu => ?_) (fun _ _ _ hu => hu) .refl
    split at hx
    · cases hx; exact retireDone_moves _ _ _ hu
    · cases hx
  | captureRecordWriteDone r =>
    cases ht
    refine completeAccess_moves _ _ _ (fun x a f u hx hu => ?_) (fun _ _ _ hu => hu) .refl
    split at hx
    · cases hx; exact captureDone_moves _ _ hu
    · cases hx
  | bucketSummaryWriteDone r =>
    cases ht
    refine completeAccess_moves _ _ _ (fun x a f u hx hu => ?_) (fun _ _ _ hu => hu) .refl
    split at hx
    · cases hx; exact bucketSummaryDone_moves _ _ hu
    · cases hx
  | incidentWriteDone r =>
    cases ht
    refine completeAccess_moves _ _ _ (fun x a f u hx hu => ?_) (fun _ _ _ hu => hu) .refl
    split at hx
    · cases hx; exact incidentDone_moves _ _ _ hu
    · cases hx
  | resultWriteDone r =>
    cases ht
    refine completeAccess_moves _ _ _ (fun x a f u hx hu => ?_) (fun _ _ _ hu => hu) .refl
    split at hx
    · cases hx; exact resultDone_moves _ _ hu
    · cases hx
  | summaryWriteDone r =>
    cases ht
    refine completeAccess_moves _ _ _ (fun x a f u hx hu => ?_) (fun _ _ _ hu => hu) .refl
    split at hx
    · cases hx; exact summaryDone_moves _ _ hu
    · cases hx
  | statusWriteDone r =>
    cases ht
    refine completeAccess_moves _ _ _ (fun x a f u hx hu => ?_) (fun _ _ _ hu => hu) .refl
    split at hx
    · cases hx; exact statusDone_moves _ _ _ hu
    · cases hx
  | directiveSlotReadDone r =>
    cases r with
    | data d => cases ht; exact slotCompletes_moves _ .refl
    | error => cases ht; exact slotFails_moves .refl
  | countAdvance pins =>
    have ht' : (if s.counting then Host.Outcome.next (advance pins (takeTickEvents s)) else Host.Outcome.next s) =
        (Host.Outcome.next t : Answer) := ht
    split at ht'
    · rw [← Host.Outcome.next.inj ht']; exact advance_moves pins (takeTickEvents_moves .refl)
    · rw [← Host.Outcome.next.inj ht']

end Sys2Proof.Machine.Laws
end

