-- ==== Sys2Proof/Tests/Slice0.lean ====
section
/-! SUPPORT. Tests of the model on small states: the checks of WellFormed, values the spec works out, and for each
statement of Certificates/Slice0/Obligations.lean with hypotheses one theorem `test_meets_<Name>` whose states and operands
meet them, clause by clause. -/

namespace Sys2Proof.Tests

open Sys2Proof Sys2Proof.Machine

/-! ## Small states -/

/-- The state a command answers. -/
def after (c : Instr) (s : State) : State :=
  match exec c s with
  | .next t => t
  | .fault _ => s
  | .refused _ => s

/-- The reset state in a device state with an ANCHOR, at count 100. -/
def device (d : DeviceState) (anchor : Address) : State :=
  { State.reset with
    timebase := { Timebase.reset with count := 100 }
    control := { Control.reset with device := d, anchor := anchor } }

/-- RUNNING, nothing waiting. -/
def running : State := device .running 0x10000

/-- An access in flight. -/
def flying (x : PortAccess) (s : State) : State :=
  { s with port := { s.port with inFlight := some ⟨x, 0x2000, false⟩ } }

/-- A track that fetches the segment at 40h: its action 0 is queued, its action 1 is next. -/
def fetching : Track :=
  { Track.reset with
    state := .active, quota := 2, queued := 1, segment := 0x40, cursor := 1
    openList := [⟨0x40, true, 1, 0, 0, 0, false, false⟩]
    fetch := some ⟨4, .keep, .runLate, 0, false, 0⟩ }

/-- T0 as given, in RUNNING. -/
def track0 (k : Track) : State := withTrack 0 k running

/-- An entry of T0's segment at 40h. -/
def entryOf (a : Action) (due : Instant) (S : LaneSet) : Entry := ⟨0, a, due, 0, S, none, 0x40, 0, 0, false⟩

def queued (es : List Entry) (s : State) : State := { s with queue := { s.queue with entries := es } }

/-- P0's window as given, in RUNNING. -/
def window0 (w : Window) : State := withWindow 0 w running

/-- An OPEN window of T0. -/
def openWindow0 : Window :=
  { Window.reset with state := .isOpen, owner := some 0, edge := .both, bucket := 0x400, capacity := 4, origin := ⟨0x40, 0, 0⟩ }

/-- P0's listener armed for T0. -/
def armed0 (pol : TimeoutPolicy) (timeout : Option Instant) : Listener := ⟨true, some 0, .rise, timeout, pol, ⟨0x40, 0, 0⟩⟩

/-- An edge of P0 that is still to be handed over. -/
def edge0 (pol : Polarity) (s : State) : State :=
  { s with probes := { s.probes with detectors := s.probes.detectors.put 0 ⟨some true, some pol, some pol⟩ } }

/-- Thirty-two capture records: the capture queue is full. -/
def fullCaptures : List CaptureRecord := List.replicate 32 ⟨0, 0x400, 0, 0, .rise⟩

/-! ## WellFormed refuses -/

theorem test_wf_control_write_with_a_command :
    (Instr.registerWriteNoEffect .control 0x00000001).wf = false ∧
    (Instr.registerWriteNoEffect .control 0xFFFFFFF2).wf = false ∧
    (Instr.registerWriteNoEffect .control 3).wf = false ∧ (Instr.registerWriteNoEffect .control 12).wf = false ∧
    (Instr.registerWriteNoEffect .control 4).wf = true := by decide

theorem test_wf_good_access_is_not_bad :
    (Instr.badRegisterAccess ⟨0x18, 4, false⟩).wf = false ∧ (Instr.badRegisterAccess ⟨0x19, 4, false⟩).wf = true ∧
    (Instr.badRegisterAccess ⟨0x18, 8, true⟩).wf = true := by decide

theorem test_wf_sequence_zero :
    (Instr.drainTrack 0 0).wf = false ∧ (Instr.abortTrack 0 0).wf = false ∧ (Instr.clearTrack 0 0).wf = false ∧
    (Instr.setGang 0 0 0).wf = false ∧ (Instr.configureLane 0 0 0).wf = false ∧
    (Instr.setFaultPolicy 0 0 0 0).wf = false ∧ (Instr.ackFaults 0 0).wf = false ∧ (Instr.loadTime 0 0).wf = false ∧
    (Instr.setFrame 0 12).wf = false ∧ (Instr.setFrame 1 12).wf = true := by decide

/-! ## The interface -/

theorem test_no_word_spells_a_command : decodeTableWord 32 0xC = none := rfl

theorem test_control_writes_are_commands :
    decodeAccess ⟨0x0C, 4, true⟩ 1 7 = some (.run 7) ∧ decodeAccess ⟨0x0C, 4, true⟩ 0xF2 7 = some .stop ∧
    decodeAccess ⟨0x0C, 4, true⟩ 3 0 = some .scan ∧ decodeAccess ⟨0x0C, 4, true⟩ 0xC 0 = some .reset ∧
    decodeAccess ⟨0x0C, 4, true⟩ 4 0 = some (.registerWriteNoEffect .control 4) ∧
    decodeAccess ⟨0x04, 4, true⟩ 4 0 = some (.anchorLoWrite 4) ∧
    decodeAccess ⟨0x0E, 4, true⟩ 1 0 = some (.badRegisterAccess ⟨0x0E, 4, true⟩) := by decide

theorem test_idle_block : step State.reset = .next State.reset := rfl

/-! ## Worked values -/

/-- The table of examples of R6. -/
theorem test_next_boundary :
    nextBoundary 16 0x23456 = 0x30000 ∧ nextBoundary 16 0x30000 = 0x40000 ∧ nextBoundary 16 0x3FFFF = 0x40000 ∧
    nextBoundary 12 0x5ABC = 0x6000 ∧ nextBoundary 12 0x6000 = 0x7000 := by decide

theorem test_ident : readRegister State.reset 0 = 0x5C160002 := by decide

theorem test_attention_clears_what_is_written :
    (after (.attentionWrite 0x05) { running with control := { running.control with attention := 0x07 } }).control.attention
      = 0x02 := by decide

theorem test_anchor_low_bits_discarded :
    (after (.anchorLoWrite 0x12345FFF) State.reset).control.anchor = 0x12345800 := by decide

theorem test_run_needs_anchor :
    (after (.run 0) State.reset).control.runRefused = true ∧
    (after (.run 0) (device .stopped 0x800)).control.device = .running ∧
    (after (.run 0) (device .stopped 0x800)).port.inFlight = some ⟨.scan .directiveSlot, 0x800, false⟩ := by
  decide

/-- The device with RESET_N held low. -/
def held : State := { State.reset with control := { Control.reset with resetLow := true } }

/-- A good read is answered with its register's value, and while RESET_N is low with an error (R12, R168, R180). -/
theorem test_read_answers :
    answerAccess ⟨0x1C, 4, false⟩ State.reset = .data 0 ∧ answerAccess ⟨0x00, 4, false⟩ State.reset = .data 0x5C160002 ∧
    answerAccess ⟨0x18, 4, false⟩ running = .data 100 ∧ answerAccess ⟨0x1C, 4, false⟩ held = .error ∧
    answerAccess ⟨0x00, 4, false⟩ held = .error ∧ answerAccess ⟨0x04, 4, true⟩ held = .error := by decide

/-- A return edge to LOW and a PULSE to HIGH of one lane at one tick make no break in its pin (R66, R79). -/
theorem test_pin_without_break :
    let s := queued [entryOf (.pulse .high 50) 100 0x8000]
      { running with lanes := running.lanes.put 15 ⟨.high, some 0, .low, some ⟨100, .low⟩⟩ }
    lanePin (after (.returnEdgeExpiry 15) s) 15 = .low ∧ tickPin (after (.returnEdgeExpiry 15) s) 15 = .high ∧
    pinRun 15 [.returnEdgeExpiry 15, .dispatchEvent, .countAdvance 0] s = [.high, .high] ∧
    pinRun 15 [.countAdvance 0] s = [.high, .high] := by decide +kernel

/-- An abort of T0 with one entry queued: the CUT record counts it as dropped (R33, R38). -/
theorem test_abort_counts_what_it_purges :
    (abortTrack 0 .trackEnd 0 (queued [entryOf .set 200 1] (track0 fetching))).port.tracks.get 0 =
      [.retire 0x40 ⟨.cut, 0, 0, 1, 100⟩] := by decide

/-- SET_GANG taken from the slot: the set, and a DONE result with the old set as its detail waiting in class 5 or in
flight. -/
theorem test_set_gang :
    (after (.setGang 7 2 0x000C) (flying (.scan .directiveSlot) running)).gangs.get 2 = 0x000C ∧
    (after (.setGang 7 2 0x000C) (flying (.scan .directiveSlot) running)).port.inFlight =
      some ⟨.out (.result ⟨7, .done, 0, 100⟩), 0x10020, false⟩ := by decide

/-- A capture record is 16 bytes: time, index, polarity, probe, four reserved (spec 10.5). -/
theorem test_capture_record_bytes :
    (CaptureRecord.bytes ⟨3, 0x400, 2, 0x4033600102030405, .fall⟩) =
      [0x05, 0x04, 0x03, 0x02, 0x01, 0x60, 0x33, 0x40, 0x02, 0x00, 0x02, 0x03, 0x00, 0x00, 0x00, 0x00] := by decide

/-- The records have the lengths of spec 10. -/
theorem test_record_lengths :
    (summaryBytes 0 0 (summaryImage State.reset)).length = 128 ∧ (statusImage Track.reset).bytes.length = 64 ∧
    (DirectiveResult.bytes ⟨1, .done, 0, 0⟩).length = 16 ∧
    (Incident.bytes ⟨1, .late, .note, .empty 0⟩).length = 32 ∧
    (RetireRecord.bytes ⟨.done, 0, 0, 0, 0⟩).length = 32 ∧
    (BucketHeader.bytes ⟨.full, 4, .both, 4, 2, 0, some 0, some 0, 0, 0⟩).length = 64 := by decide +kernel

/-- A SET record: L3, REL 100h (spec 10.4). -/
theorem test_action_record :
    parseAction 0x0000000000000000_0000000000000000_0000000000000100_0000000000030101 = some (.set, .lane 3) ∧
    actionTimeMode 0x0000000000000000_0000000000000000_0000000000000100_0000000000030101 = some .rel ∧
    actionTime 0x0000000000000000_0000000000000000_0000000000000100_0000000000030101 = 0x100 ∧
    parseAction 0x0000000000000000_0000000000000000_0000000000000100_0000000000100101 = none := by decide

/-- Worked sequence 11.2: an edge within the quiet interval is suppressed, one past it is admitted, and the fourth closes
the window FULL. -/
theorem test_window_of_worked_sequence :
    let w : Window := { openWindow0 with quiet := 0x20, count := 3, lastTime := some 60, firstTime := some 10 }
    let t := after (.probeEdge 0 .windowOnly) (edge0 .fall (window0 w))
    let x := after (.probeEdge 0 .windowOnly) (edge0 .fall (window0 { w with lastTime := some 69 }))
    (t.probes.windows.get 0).state = .closing ∧ (t.probes.windows.get 0).cause = some .full ∧
    (t.probes.windows.get 0).count = 4 ∧ (x.probes.windows.get 0).suppressed = 1 ∧ (x.probes.windows.get 0).count = 3 := by
  decide

/-- T0 in AWAITING with anchor 7, after an edge of P0 at 100 that resolves its await. -/
def edgeTaken (k : Track) : State :=
  after (.probeEdge 0 .listenerOnly) (edge0 .rise (withListener 0 (armed0 .skip none) (track0 { k with state := .awaiting, anchor := 7 })))

/-- An edge before an abort or a drain of the same tick is not taken: anchor, cursor and pass stay, and no read is asked for (R106).
Without one it reaches the track by the end of its tick, at the end of a pass with the next one (R26, R28). -/
theorem test_edge_and_disarm_of_one_tick :
    let s := edgeTaken { fetching with cursor := 4, fetch := some ⟨4, .keep, .runLate, 1, false, 50⟩ }
    let z := abortTrack 0 .trackEnd 0 s
    let d := drainEffect 1 0 s
    let u := after (.countAdvance 0) s
    ((s.probes.listeners.get 0).armed, (s.tracks.get 0).outcome) = (false, some (.edge 100)) ∧
    ((z.tracks.get 0).anchor, (z.tracks.get 0).cursor, (z.tracks.get 0).pass, (z.tracks.get 0).outcome) = (7, 4, 0, none) ∧
    z.port.tracks.get 0 = [.retire 0x40 ⟨.cut, 0, 0, 0, 100⟩] ∧
    ((d.tracks.get 0).state, (d.tracks.get 0).anchor, d.port.tracks.get 0, d.port.inFlight) = (.closing, 7, [], none) ∧
    ((u.tracks.get 0).state, (u.tracks.get 0).anchor, (u.tracks.get 0).cursor, (u.tracks.get 0).pass) = (.active, 150, 0, 1) ∧
    u.port.inFlight = some ⟨.track 0 (.action 0x40 0 1 0), 0x80, false⟩ := by decide +kernel

/-- An edge before a CLEAR_TRACK or START_TRACK of the same tick: the directive is refused with the state ACTIVE, 1, and the track
has returned with the edge as its anchor (R160, R26). Before the edge it is refused with AWAITING, 2 (R160). An abort that follows
the clearing at that tick leaves the anchor before the await resolved (R106). -/
theorem test_edge_and_clear_of_one_tick :
    let s := edgeTaken { fetching with cursor := 1, fetch := some ⟨4, .keep, .runLate, 1, false, 50⟩ }
    let c := directiveClear ⟨1, 4, 0, 0, 0⟩ s
    let d := directiveClear ⟨1, 4, 0, 0, 0⟩ (track0 { fetching with state := .awaiting })
    let x := executeStart 0 1 (.data 0) { s with control := { s.control with device := .running } }
    c.port.out.getLast? = some (.result ⟨1, .refusedTrackState, 1, 100⟩) ∧
    ((c.tracks.get 0).state, (c.tracks.get 0).anchor, c.port.tracks.get 0) = (.active, 100, [.action 0x40 1 0 0]) ∧
    d.port.out.getLast? = some (.result ⟨1, .refusedTrackState, 2, 100⟩) ∧
    x.port.out.getLast? = some (.result ⟨1, .refusedTrackState, 1, 100⟩) ∧
    ((abortTrack 0 .trackEnd 0 c).tracks.get 0).anchor = 7 ∧ ((takeOutcomes c).tracks.get 0).outcome = none ∧
    ((takeOutcomes c).tracks.get 0).anchor = 100 := by decide +kernel

/-- A TIMEOUT_SKIP that retires its segment does so at its own tick (R27, R34), unless the track is aborted at that tick: the
segment is cut (R106, R38). -/
theorem test_skip_and_abort_of_one_tick :
    let k : Track := { fetching with state := .awaiting, queued := 0, openList := [⟨0x40, true, 0, 2, 0, 0, false, false⟩] }
    let s := timeoutEvent 0 (withListener 0 (armed0 .skip (some 100)) (track0 k))
    (abortTrack 0 .trackEnd 0 s).port.tracks.get 0 = [.retire 0x40 ⟨.cut, 0, 2, 0, 100⟩] ∧
    (takeOutcomes s).port.tracks.get 0 = [.retire 0x40 ⟨.skipped, 0, 2, 0, 100⟩, .link 0x40 false 0 0] ∧
    ((takeOutcomes s).tracks.get 0).openList = [] ∧ (takeOutcomes s).attends .retired = true ∧
    (abortTrack 0 .trackEnd 0 (takeOutcomes s)).port.tracks.get 0 =
      [.retire 0x40 ⟨.skipped, 0, 2, 0, 100⟩, .link 0x40 false 0 0] := by decide +kernel

/-- A track halted by its own AWAIT_TIMEOUT has the timeout as its anchor (R26); under NOTE it takes the timeout by the end of the
tick, and an abort of that tick leaves the anchor before it (R104, R106). -/
theorem test_timeout_under_track_and_note :
    let k : Track := { fetching with state := .awaiting, anchor := 7 }
    let s := withListener 0 (armed0 .fault (some 100)) (track0 k)
    let n := timeoutEvent 0
      { s with faults := { s.faults with policy := s.faults.policy.put FaultKind.awaitTimeout.code ⟨.note, false⟩ } }
    let u := (timeoutEvent 0 s).tracks.get 0
    (u.state, u.haltKind, u.anchor) = (.halted, some .awaitTimeout, 100) ∧
    faultWordHas n.faults.word .awaitTimeout = true ∧
    ((n.tracks.get 0).state, (n.tracks.get 0).anchor, (n.tracks.get 0).outcome) = (.awaiting, 7, some (.timeoutFault 100)) ∧
    (((takeOutcomes n).tracks.get 0).state, ((takeOutcomes n).tracks.get 0).anchor) = (.active, 100) ∧
    ((abortTrack 0 .trackEnd 0 n).tracks.get 0).anchor = 7 := by decide +kernel

/-- Two entries due at one tick are both dispatched, in queue order (R53). -/
theorem test_two_entries_due :
    let s := queued [entryOf (.mark 7) 100 0, entryOf (.mark 8) 100 0] (track0 { fetching with queued := 2 })
    (dispatchEvent s).queue.entries = [] ∧ (dispatchEvent s).queue.markTag = 8 := by decide

/-! ## The hypotheses of the statements are met -/

/-- In RUNNING with a lane, two entries, a full capture queue, a fault and a byte of memory, every invariant holds, and a
step answers a next state; with RESET_N low they hold as well. -/
def busy : State :=
  { running with
    queue := { running.queue with entries := [entryOf .set 200 1, entryOf .clear 200 2, entryOf .toggle 201 3] }
    lanes := running.lanes.put 0 ⟨.high, some 0, .low, some ⟨300, .low⟩⟩
    probes := { running.probes with captures := fullCaptures }
    faults := { running.faults with word := 1, first := { FirstFault.reset with valid := true } }
    memory := [(0, 1), (5, 7)]
    pending := [.countAdvance 0xFFFF] }

theorem test_meets_StepKeepsInvariants :
    ControlInv busy ∧ LanesInv busy ∧ FirstFaultInv busy ∧ CaptureInv busy ∧ QueueInv busy ∧ MemoryInv busy ∧
    ∃ t, step busy = .next t ∧ t.timebase.count = 101 := by
  refine ⟨?_, ?_, ?_, ?_, ?_, ?_, after (.countAdvance 0xFFFF) { busy with pending := [] }, ?_⟩
  · unfold ControlInv AnchorAligned FrameInRange RunningHasAnchor ResetLineStops; decide
  · unfold LanesInv; decide
  · unfold FirstFaultInv; decide
  · unfold CaptureInv; decide
  · unfold QueueInv EntryBefore; decide
  · unfold MemoryInv; decide
  · exact ⟨rfl, by decide +kernel⟩

theorem test_meets_StepKeepsControlInv_reset_low :
    ∃ s t, ControlInv s ∧ s.control.resetLow = true ∧ step s = .next t := by
  refine ⟨{ held with pending := [.run 0] }, _, ?_, rfl, rfl⟩
  unfold ControlInv AnchorAligned FrameInRange RunningHasAnchor ResetLineStops; decide

theorem test_meets_EveryStepAnswersNext : State.reset.pending = [] := rfl

theorem test_meets_RegisterWindow :
    running.control.resetLow = false ∧ (RegisterAccess.bad ⟨1, 4, false⟩ = true) ∧
    (RegisterAccess.bad ⟨31, 4, true⟩ = true) ∧ (RegisterAccess.bad ⟨0, 2, true⟩ = true) ∧ held.control.resetLow = true ∧
    (RegisterAccess.bad ⟨0x1C, 4, false⟩ = false ∧ (0x1C#5).toNat = 4 * (7 : Fin 8).val) ∧
    RegisterAccess.bad ⟨0x1C, 4, true⟩ = false ∧ decodeAccess ⟨0x18, 4, false⟩ 0 0 = some .timeLoRead ∧
    decodeAccess ⟨0x1C, 4, false⟩ 0 0 = none := by decide

theorem test_meets_TimeLoReadLatchesHighHalf :
    (device .stopped 0).control.resetLow = false ∧ (device .halted 0x800).control.resetLow = false := by decide

theorem test_meets_AnchorWrites :
    ((device .stopped 0).control.resetLow = false ∧ (device .stopped 0).control.device = .stopped) ∧
    ((device .halted 0).control.resetLow = false ∧ (device .halted 0).control.device ≠ .stopped) := by decide

theorem test_meets_AttnEnableAndLine :
    State.reset.control.resetLow = false ∧
    attnPin { running with control := { running.control with attention := 0x40, enable := 0x40 } } = false ∧
    attnPin { running with control := { running.control with attention := 0x40, enable := 0x3F } } = true := by decide

/-- A HALTED device whose fault word holds BUS_READ, of class DEVICE by default. -/
def haltedByBus : State := { device .halted 0x800 with faults := { FaultCollector.reset with word := FaultKind.busRead.bit } }

theorem test_meets_RunJudged :
    (PortQuiet (device .stopped 0) ∧ (device .stopped 0).control.anchor = 0) ∧
    (PortQuiet running ∧ running.control.device = .running) ∧
    (PortQuiet haltedByBus ∧ faultWordHas haltedByBus.faults.word .busRead = true ∧
      (haltedByBus.faults.policy.get FaultKind.busRead.code).cls = .device) ∧
    ((device .stopped 0x800).control.device = .stopped ∧ (device .stopped 0x800).control.anchor ≠ 0) ∧
    ((device .halted 0x800).control.device = .halted ∧
      ¬∃ k : FaultKind, faultWordHas (device .halted 0x800).faults.word k = true ∧
        ((device .halted 0x800).faults.policy.get k.code).cls = .device) := by
  unfold PortQuiet
  refine ⟨by decide, by decide, by decide, by decide, by decide, ?_⟩
  rintro ⟨k, h, -⟩
  revert h
  cases k <;> decide

theorem test_meets_StopEndsTracks :
    (device .stopped 0).control.device = .stopped ∧ running.control.device ≠ .stopped ∧
    running.directives.drain = none ∧ (running.probes.windows.get 1).state ≠ .isOpen ∧
    (∀ t, (running.probes.windows.get 1).owner = some t → (running.tracks.get t).state.alive = false) ∧
    (running.probes.listeners.get 1).armed = false ∧
    ∃ s : State, s.control.device = .running ∧ s.control.resetLow = false ∧ (s.tracks.get 0).state.alive = true ∧
      (s.tracks.get 7).state.alive = false ∧ (s.probes.windows.get 0).owner = some 0 ∧
      (s.probes.windows.get 0).state = .isOpen ∧ (s.probes.listeners.get 0).armed = true ∧
      (s.probes.listeners.get 0).owner = some 0 ∧ s.directives.drain = some ⟨1, 0⟩ ∧
      ∃ r ∈ (s.tracks.get 0).openList, r.notifyOnRetire = true :=
  ⟨by decide, by decide, by decide, by decide, by decide, by decide,
    { withListener 0 (armed0 .skip none) (withTrack 0 fetching (window0 openWindow0)) with
      directives := ⟨1, some ⟨1, 0⟩⟩ }, by decide⟩

/-- A result write waits. -/
def answering (s : State) : State := withResult 1 .done 0 s

theorem test_meets_ScanTriggers :
    running.control.resetLow = false ∧
    (running.counting = true ∧ running.timebase.boundary = false) ∧
    ({ running with timebase := { running.timebase with boundary := true } } : State).counting = true ∧
    (device .stopped 0).control.anchor = 0 ∧
    (∃ s : State, s.control.anchor ≠ 0 ∧ s.scanner.scan.isSome = true) ∧
    (running.control.anchor ≠ 0 ∧ running.scanner.scan = none ∧ resultOutstanding running = false) ∧
    ((answering running).control.anchor ≠ 0 ∧ (answering running).scanner.scan = none ∧
      resultOutstanding (answering running) = true) ∧
    resultOutstanding (flying (.out (.result ⟨1, .done, 0, 0⟩)) running) = true :=
  ⟨by decide, by decide, by decide, by decide, ⟨{ running with scanner := ⟨some 0, false, 0⟩ }, by decide⟩,
    by decide, by decide, by decide⟩

/-- A scan in progress whose images of the summary and of every status are those written last. -/
def scanning : State :=
  { running with
    scanner := ⟨some 0, false, 0⟩
    port := { running.port with
      lastSummary := some (summaryImage running)
      lastStatus := Table.tab fun t => some (statusImage (running.tracks.get t)) } }

theorem test_meets_ScanOrder :
    (∃ s : State, (s.tracks.get 7).state = .parked ∧ ∀ x : TrackId, 0 ≤ x.val → x < 7 → (s.tracks.get x).state ≠ .parked) ∧
    (∀ t : TrackId, 0 ≤ t.val → (running.tracks.get t).state ≠ .parked) ∧
    ((0x80000000#32).getLsbD 31 = true ∧ ∀ x : SlotId, 0 ≤ x.val → x < 31 → (0x80000000#32).getLsbD x.val = false) ∧
    (∀ i : SlotId, 0 ≤ i.val → (0#32).getLsbD i.val = false) ∧
    (scanning.scanner.scan = some 0 ∧ nextLinkRead 1 0 scanning = some (.heldFlag 0) ∧
      nextLinkRead 0 0 scanning = none ∧ scanning.scanner.pending = false ∧
      scanning.port.lastSummary = some (summaryImage scanning) ∧
      ∀ t, scanning.port.lastStatus.get t = some (statusImage (scanning.tracks.get t))) ∧
    some (summaryImage { scanning with faults := { scanning.faults with masked := 1 } }) ≠ scanning.port.lastSummary ∧
    (let x := withTrack 7 { Track.reset with queued := 1 } scanning;
      x.port.lastSummary = some (summaryImage x) ∧ x.port.lastStatus.get 7 ≠ some (statusImage (x.tracks.get 7)) ∧
      ∀ t, t ≠ 7 → x.port.lastStatus.get t = some (statusImage (x.tracks.get t))) ∧
    (let y : State := { scanning with scanner := ⟨some 0, true, 0⟩ };
      let z : State := { y with control := { y.control with anchor := 0 } };
      y.scanner.pending = true ∧ nextLinkRead 0 0 y = none ∧ y.control.anchor ≠ 0 ∧ z.control.anchor = 0 ∧
      resultOutstanding y = false ∧ resultOutstanding (answering y) = true ∧ nextLinkRead 0 0 (answering y) = none ∧
      nextLinkRead 1 0 (answering y) = some (.heldFlag 0)) := by
  refine ⟨⟨withTrack 7 { Track.reset with state := .parked } running, ?_⟩, ?_, ?_, ?_, ?_, ?_, ?_, ?_⟩ <;> decide

theorem test_meets_DeviceReset : running.control.resetLow = false := by decide

theorem test_meets_PowerOnReset :
    held.control.resetLow = true ∧
    IsAccess (.run 0) = true ∧ IsAccess (.badRegisterAccess ⟨1, 4, true⟩) = true ∧ IsTickEvent (.countAdvance 0) = true := by
  decide

/-- Right after a reset that found `x` in flight, RESET_N still low or not. -/
def abandoning (low : Bool) (x : PortAccess) : State :=
  { State.reset with
    port := { Port.reset with inFlight := some ⟨x, 0x40, true⟩ }
    control := { Control.reset with resetLow := low, anchor := if low then 0 else 0x800 } }

theorem test_meets_CompletionsWithoutRequester :
    completes (.resultWriteDone .stored) (.out (.result ⟨1, .done, 0, 0⟩)) = some true ∧
    completes (.resultWriteDone .error) (.out (.result ⟨1, .done, 0, 0⟩)) = some false ∧
    completes (.setFrame 1 12) (.scan .directiveSlot) = some false ∧
    IsCompletion (.resultWriteDone .stored) = true ∧ running.port.inFlight = none ∧
    completes (.resultWriteDone .stored) (.scan .directiveSlot) = none ∧
    IsFailedScanRead (.resultWriteDone .error) = false ∧ IsFailedScanRead (.startTrack .error) = true ∧
    (abandoning true (.scan .directiveSlot)).control.resetLow = true ∧
    (abandoning false (.scan (.link 7 0x40))).control.resetLow = false ∧
    (abandoning false (.scan (.link 7 0x40))).port.inFlight = some ⟨.scan (.link 7 0x40), 0x40, true⟩ := by decide

/-- Abandoned by a reset, a failed scan read raises BUS_READ (R133), but not under RESET_N low (R180); a failed read of an
engine raises nothing (R149, log 31). -/
theorem test_abandoned_read_fails :
    (after (.directiveSlotReadDone .error) (abandoning false (.scan .directiveSlot))).faults.word = FaultKind.busRead.bit ∧
    (after (.directiveSlotReadDone .error) (abandoning true (.scan .directiveSlot))).faults.word = 0 ∧
    (after (.headerReadDone .error) (abandoning false (.track 0 (.header 0x40 0 0)))).faults.word = 0 := by decide

theorem test_meets_StoreWritesRecord :
    (0xFFFFFFFFFFFFFFFF#64).toNat + [7#8].length ≤ 2 ^ 64 ∧ Memory.wf [(3, 1), (0xFFFFFFFFFFFFFFFF, 2)] := by decide

theorem test_meets_PortGrants :
    running.control.anchor ≠ 0 ∧ PortQuiet running ∧
    ∃ s : State, s.port.inFlight = none ∧ s.control.resetLow = false ∧ s.control.anchor = 0 ∧
      nextAccess s.probes.captures s.port = some (.scan .directiveSlot) ∧ PortAccess.inArea (.scan .directiveSlot) = true := by
  refine ⟨by decide, by unfold PortQuiet; decide,
    { State.reset with port := { Port.reset with scanRead := some .directiveSlot } }, by decide⟩

/-- With ANCHOR 0 a request outside the exchange area waits, and a failed descriptor read meets a drain or none. -/
theorem test_meets_PortGrants_outside :
    let s : State := { State.reset with port := { Port.reset with scanRead := some (.link 7 0x40) } }
    s.port.inFlight = none ∧ s.control.resetLow = false ∧ s.control.anchor = 0 ∧
    nextAccess s.probes.captures s.port = some (.scan (.link 7 0x40)) ∧
    PortAccess.inArea (.scan (.link 7 0x40)) = false ∧ s.directives.drain = none ∧
    ({ s.directives with drain := some ⟨7, 0⟩ } : DirectiveUnit).drain = some ⟨7, 0⟩ ∧ held.control.resetLow = true := by
  decide

/-- A window that closes has its summary requested at once when none of its records is pending, and not before they are
written when one is (R94, R95). -/
theorem test_summary_at_close :
    (closeWindowsOf 0 .trackHalt (window0 openWindow0)).port.summaries.map (fun w => w.header.cause) = [.trackHalt] ∧
    closingSummaries (ownedBy 0) .trackHalt (window0 openWindow0) =
      (closeWindowsOf 0 .trackHalt (window0 openWindow0)).port.summaries ∧
    closingSummaries (ownedBy 0) .trackHalt (window0 { openWindow0 with pending := 1 }) = [] ∧
    closingSummaries (ownedBy 1) .trackHalt (window0 openWindow0) = [] := by decide

/-- The last places of the exchange area, of an action record, a retire record and a capture record. -/
theorem test_meets_PortGrants_addresses :
    (0xFFFFFFFFFFFFF800#64).toNat + 0x740 ≤ 2 ^ 64 ∧ (0xFFFFFFFFFFFFE000#64).toNat + 64 + 32 * 253 < 2 ^ 64 ∧
    (0xFFFFFFFFFFFFFFC0#64).toNat + 0x20 < 2 ^ 64 ∧ (0xFFFFFFFFFFF00000#64).toNat + 64 + 16 * 65531 < 2 ^ 64 := by decide

theorem test_meets_ArbiterOrder :
    let r : TrackRequest := .retire 0x40 ⟨.done, 0, 0, 0, 0⟩
    let p : Port := { Port.reset with tracks := Port.reset.tracks.put 7 [r] }
    (p.summaries = [] ∧ p.incidents = [] ∧ p.tracks.get (p.roundRobin + 1 + 7) = r :: [] ∧
      ∀ e : Fin 8, e < 7 → p.tracks.get (p.roundRobin + 1 + e) = []) ∧
    (∀ t, Port.reset.tracks.get t = []) ∧ Port.reset.scanRead = none ∧ Port.reset.out = [] := by decide

theorem test_meets_OutWritesFormed :
    (∀ w ∈ running.port.out, w.isSummary = false) ∧ (∀ w ∈ running.port.out, w.isStatusOf 0 = false) ∧
    (∃ w ∈ (formSummary running).port.out, w.isSummary = true) ∧
    (∃ w ∈ (formStatus 0 running).port.out, w.isStatusOf 0 = true) := by decide

theorem running_owes_no_event : NoEventOwed running := by
  refine ⟨?_, ?_, ?_, ?_, ?_, by decide, ?_⟩
  · intro e es h; cases h
  · intro l r h
    have e : ∀ l, (running.lanes.get l).returnEdge = none := by decide
    rw [e l] at h
    cases h
  · decide
  · decide
  · decide
  · unfold PortQuiet; decide

theorem running_owes_nothing : NothingOwed running := ⟨running_owes_no_event, by decide⟩

/-- T0 in a state, with an await outcome on its way. -/
def reaching (st : TrackState) (o : AwaitOutcome) : State := track0 { fetching with state := st, outcome := some o }

theorem test_meets_CountAdvances :
    (device .stopped 0).counting = false ∧ (device .halted 0x800).counting = true ∧ NothingOwed running ∧
    (reaching .awaiting (.edge 100)).counting = true ∧ NoEventOwed (reaching .awaiting (.edge 100)) :=
  ⟨by decide, by decide, running_owes_nothing, by decide, running_owes_no_event⟩

theorem test_meets_NextBoundaryIsLeast :
    (0#64).toNat + 2 ^ 24 < 2 ^ 64 ∧ (0xFFFFFFFFFEFFFFFF#64).toNat + 2 ^ 24 < 2 ^ 64 ∧ (0#64).toNat % 2 ^ 24 = 0 := by
  decide

theorem test_meets_ReturnEdgeExpires :
    let s := fun i : Instant => { running with lanes := running.lanes.put 15 ⟨.high, some 0, .low, some ⟨i, .low⟩⟩ }
    (s 100).counting = true ∧ ((s 100).lanes.get 15).returnEdge = some ⟨100, .low⟩ ∧ (100 : Instant) ≤ (s 100).timebase.count ∧
    (running.lanes.get 15).returnEdge = none ∧ (s 101).timebase.count < (101 : Instant) := by decide

theorem test_meets_ReturnEdgeExpires_pins :
    running.counting = true ∧ NothingOwed running ∧ (device .stopped 0).counting = false ∧
    (∃ t, exec (.countAdvance 0) running = .next t) ∧ (∃ t, exec .stop running = .next t) ∧
    (∀ pins, Instr.stop ≠ .countAdvance pins) ∧ ∃ t, exec .stop (device .stopped 0) = .next t :=
  ⟨by decide, running_owes_nothing, by decide, ⟨_, rfl⟩, ⟨_, rfl⟩, fun _ h => (by cases h), ⟨_, rfl⟩⟩

/-- L0 owned by T0 and L15 by T1. -/
def ownedLanes : State :=
  { running with lanes := (running.lanes.put 0 ⟨.low, some 0, .low, none⟩).put 15 ⟨.high, some 1, .high, none⟩ }

theorem test_meets_LaneHandOffsAccepted :
    (∀ l, laneIn 0x0001 l = true → (ownedLanes.lanes.get l).owner = some 0) ∧
    (∀ l, laneIn 0 l = true → (ownedLanes.lanes.get l).owner = some 0) ∧
    (∀ l, laneIn 0x7FFF l = true → (ownedLanes.lanes.get l).owner = none ∨ (ownedLanes.lanes.get l).owner = some 0) ∧
    ((0xFFFFFFFFFFFFFFFE#64).toNat + 1 < 2 ^ 64 ∧ 2 ^ 64 ≤ (0xFFFFFFFFFFFFFFFF#64).toNat + 1) ∧
    (∃ r, (⟨.high, some 0, .low, some ⟨100, .low⟩⟩ : Lane).returnEdge = some r ∧ r.instant ≤ (100 : Instant)) ∧
    (∃ r, (⟨.high, some 0, .low, some ⟨101, .low⟩⟩ : Lane).returnEdge = some r ∧ (100 : Instant) < r.instant) :=
  ⟨by decide, by decide, by decide, by decide, ⟨_, rfl, by decide⟩, ⟨_, rfl, by decide⟩⟩

theorem test_meets_LaneHandOffsRefused :
    (∃ l, laneIn 0xFFFF l = true ∧ (ownedLanes.lanes.get l).owner ≠ some 0) ∧ (Action.set.isDriving = true) ∧
    (∃ l, laneIn 0x8001 l = true ∧ (ownedLanes.lanes.get l).owner ≠ some 0 ∧ (ownedLanes.lanes.get l).owner ≠ none) :=
  ⟨⟨1, by decide⟩, rfl, ⟨15, by decide⟩⟩

/-- T0 in a state, with its listener armed on P0. -/
def armedTrack (st : TrackState) : State := withListener 0 (armed0 .skip none) (track0 { fetching with state := st })

theorem test_meets_ProbeHandOffs :
    (running.probes.windows.get 0).state = .free ∧
    ((window0 openWindow0).probes.windows.get 0).state ≠ .free ∧
    ((window0 openWindow0).probes.windows.get 0).state = .isOpen ∧
    ((window0 openWindow0).probes.windows.get 0).owner = some 0 ∧
    ((window0 openWindow0).probes.windows.get 0).owner ≠ some 1 ∧
    ((armedTrack .closing).tracks.get 0).state = .closing ∧
    (((armedTrack .awaiting).tracks.get 0).state ≠ .closing ∧ ((armedTrack .awaiting).probes.listeners.get 1).armed = false) ∧
    (((armedTrack .active).tracks.get 0).state ≠ .closing ∧ ((armedTrack .active).tracks.get 0).state ≠ .awaiting ∧
      ((armedTrack .active).probes.listeners.get 0).armed = true) ∧
    (((armedTrack .awaiting).tracks.get 0).state = .awaiting ∧
      ((armedTrack .awaiting).probes.listeners.get 0).armed = true) := by decide

theorem test_meets_WindowCloses :
    let s := fun (n pending : Nat) (d : Option Instant) =>
      window0 { openWindow0 with count := n, pending := pending, deadline := d }
    (running.probes.windows.get 0).state ≠ .isOpen ∧
    (((s 1 1 none).probes.windows.get 0).state = .isOpen ∧ ((s 1 1 none).probes.windows.get 0).pending ≠ 0) ∧
    ((s 1 0 none).probes.windows.get 0).pending = 0 ∧
    ((s 1 0 (some 100)).counting = true ∧ ((s 1 0 (some 100)).probes.windows.get 0).deadline = some 100 ∧
      (100 : Instant) ≤ (s 1 0 (some 100)).timebase.count ∧ ((s 1 0 (some 100)).probes.windows.get 0).count ≠ 0) ∧
    ((s 0 0 (some 100)).probes.windows.get 0).count = 0 ∧
    ((s 1 0 (some 101)).probes.windows.get 0).deadline = some 101 ∧
    (s 1 0 (some 101)).timebase.count < (101 : Instant) := by decide

/-- P0's window with an edge of P0 to come. -/
def edgeAtWindow (w : Window) : State := edge0 .rise (window0 w)

theorem test_meets_EdgeAtWindow :
    let quietBy := fun w : Window => ∃ l, w.lastTime = some l ∧ (100 : Nat) < l.toNat + w.quiet
    (edgeAtWindow openWindow0).counting = true ∧
    ((edgeAtWindow openWindow0).probes.detectors.get 0).windowEdge = some .rise ∧
    (edgeAtWindow openWindow0).timebase.count.toNat = 100 ∧
    (Window.reset.state ≠ .isOpen) ∧ (EdgeKind.fall.admits .rise = false) ∧ openWindow0.state = .isOpen ∧
    openWindow0.edge.admits .rise = true ∧
    quietBy { openWindow0 with lastTime := some 100, quiet := 1 } ∧
    ¬quietBy { openWindow0 with lastTime := some 99, quiet := 1 } ∧ ¬quietBy openWindow0 ∧
    32 ≤ fullCaptures.length ∧ ¬32 ≤ (edgeAtWindow openWindow0).probes.captures.length ∧
    ¬32 ≤ fullCaptures.tail.length ∧
    (openWindow0.limit = 0 ∧ openWindow0.count + 1 ≠ openWindow0.capacity) ∧
    ({ openWindow0 with limit := 4, count := 3 } : Window).count + 1 = 4 ∧
    ({ openWindow0 with count := 3 } : Window).count + 1 = openWindow0.capacity := by
  refine ⟨by decide, by decide, by decide, by decide, by decide, by decide, by decide,
    ⟨100, by decide, by decide⟩, ?_, ?_, by decide, by decide, by decide, by decide, by decide, by decide⟩
  · rintro ⟨l, h, hl⟩
    cases h
    revert hl
    decide
  · rintro ⟨l, h, -⟩
    cases h

theorem test_meets_EdgeAtListener :
    let s := fun st : TrackState => edge0 .rise (armedTrack st)
    running.counting = true ∧ (running.probes.detectors.get 0).windowEdge = none ∧
    (running.probes.detectors.get 0).listenerEdge = none ∧
    ((s .awaiting).probes.detectors.get 0).listenerEdge = some .rise ∧
    ((edge0 .rise running).probes.listeners.get 0).armed = false ∧
    EdgeKind.admits ((s .awaiting).probes.listeners.get 0).edge .fall = false ∧
    (((s .awaiting).probes.listeners.get 0).armed = true ∧ EdgeKind.admits ((s .awaiting).probes.listeners.get 0).edge .rise = true ∧
      ((s .awaiting).probes.listeners.get 0).owner = some 0 ∧ ((s .awaiting).tracks.get 0).state = .awaiting) ∧
    ((s .active).tracks.get 0).state ≠ .awaiting ∧
    ((s .awaiting).tracks.get 0).outcome = none ∧
    (∀ st ∈ [TrackState.awaiting, .closing], ((reaching st (.edge 100)).tracks.get 0).outcome = some (.edge 100) ∧
      ((reaching st (.edge 100)).tracks.get 0).state = st) ∧
    ((reaching .active (.taken 7)).tracks.get 0).outcome = some (.taken 7) := by decide

theorem test_meets_TimeoutExpires :
    let s := fun (st : TrackState) (pol : TimeoutPolicy) (i : Instant) =>
      withListener 0 (armed0 pol (some i)) (track0 { fetching with state := st })
    (∀ pol ∈ [TimeoutPolicy.skip, .fault], ∀ st ∈ [TrackState.awaiting, .active],
      ((s st pol 100).probes.listeners.get 0).armed = true ∧ ((s st pol 100).probes.listeners.get 0).timeout = some 100 ∧
      (100 : Instant) ≤ (s st pol 100).timebase.count ∧ ((s st pol 100).probes.listeners.get 0).owner = some 0 ∧
      ((s st pol 100).probes.listeners.get 0).policy = pol ∧ ((s st pol 100).tracks.get 0).state = st) ∧
    (running.probes.listeners.get 0).armed = false ∧ ((armedTrack .awaiting).probes.listeners.get 0).timeout = none ∧
    (s .awaiting .skip 101).timebase.count < (101 : Instant) ∧
    (∀ o ∈ [AwaitOutcome.timeoutFault 100, .timeoutSkip], ((reaching .awaiting o).tracks.get 0).outcome = some o ∧
      ((reaching .awaiting o).tracks.get 0).state = .awaiting) := by decide

/-- One due entry of T0: a MARK stays in hand through its hand-off; a SET of a lane T0 does not own halts T0, which gives
its notice. -/
theorem test_meets_DispatchTakesHead :
    let s := fun a S => queued [entryOf a 100 S, entryOf .set 101 1] (track0 fetching)
    let u := fun a S => notifyEffect (entryOf a 100 S).handOff (handAction (entryOf a 100 S).handOff
      { s a S with queue := { (s a S).queue with entries := [entryOf .set 101 1], inHand := some (entryOf a 100 S) } })
    (s (.mark 7) 0).counting = true ∧ (∀ e, running.queue.entries.head? ≠ some e) ∧
    (entryOf (.mark 7) 100 0).due ≤ (s (.mark 7) 0).timebase.count ∧
    (∀ x ∈ [entryOf .set 101 1], (s (.mark 7) 0).timebase.count < x.due) ∧
    (u (.mark 7) 0).queue.inHand ≠ none ∧ (u .set 1).queue.inHand = none ∧
    (∃ h : HandOff, h.notify = true ∧ (∀ tag, h.action ≠ .mark tag) ∧
      ∀ p e b cap lim span q, h.action ≠ .openWindow p e b cap lim span q) := by
  refine ⟨by decide, ?_, by decide, by decide, by decide, by decide +kernel, ⟨0, .closeWindow 0, 0, 0x40, 0, 0, true⟩, rfl,
    fun _ h => (by cases h), fun _ _ _ _ _ _ _ h => (by cases h)⟩
  intro e h
  cases h

theorem test_meets_DispatchLeavesNothingDue :
    (queued [entryOf (.mark 7) 100 0, entryOf .set 101 1] running).counting = true ∧
    QueueInv (queued [entryOf (.mark 7) 100 0, entryOf .set 101 1] running) := by
  unfold QueueInv EntryBefore
  decide

theorem test_meets_DispatchNoticeCounts :
    let s := fun st n => track0 { fetching with state := st, queued := n }
    let q := track0 { fetching with queued := 2, stallQuota := true }
    (((s .active 1).tracks.get 0).stallQuota = false ∧ ((s .active 1).tracks.get 0).state ≠ .closing) ∧
    (((s .closing 2).tracks.get 0).stallQuota = false ∧ 1 < ((s .closing 2).tracks.get 0).queued) ∧
    (((s .closing 1).tracks.get 0).state = .closing ∧ ((s .closing 1).tracks.get 0).queued ≤ 1) ∧
    ((q.tracks.get 0).state = .active ∧ (q.tracks.get 0).fetch.isSome = true ∧ (q.tracks.get 0).stallQuota = true ∧
      (q.tracks.get 0).stallSegments = false ∧ (q.tracks.get 0).stallPort = false ∧
      (q.tracks.get 0).queued - 1 < (q.tracks.get 0).quota) := by decide

/-- An insertion request of T0. -/
def request (a : Action) (due : Instant) (pol : LatePolicy) (g : Target) : Insertion :=
  ⟨0, a, due, g, true, pol, 0x40, 0, 1⟩

theorem test_meets_InsertionTaken :
    let s := queued [entryOf .clear 200 2] (track0 fetching)
    let w := Action.await 0 .rise 0 .skip
    ((request .set 100 .runLate (.lane 0)).due ≤ s.timebase.count ∧ Action.set.isAwait = false) ∧ w.isAwait = true ∧
    (request .set 100 .dropLate (.lane 0)).policy = .dropLate ∧
    (s.timebase.count < (request .set 101 .runLate (.lane 0)).due ∧ Action.set.isDriving = true) ∧
    (∃ e ∈ s.queue.entries, e.action.isDriving = true ∧ e.due = (request .set 200 .runLate (.lane 1)).due ∧
      e.lanes &&& resolveTarget s.gangs (request .set 200 .runLate (.lane 1)).target ≠ 0) ∧
    (¬∃ e ∈ s.queue.entries, e.action.isDriving = true ∧ e.due = (request .set 200 .runLate (.lane 0)).due ∧
      e.lanes &&& resolveTarget s.gangs (request .set 200 .runLate (.lane 0)).target ≠ 0) ∧
    w.isDriving = false ∧ TrackState.awaiting ≠ .active ∧ QueueInv s := by
  unfold QueueInv EntryBefore
  decide

theorem test_meets_FaultTaken :
    let s := { running with faults := { running.faults with slots := Table.tab fun n => if n = 31 then .free else .held } }
    let x := { running with faults := { running.faults with slots := Table.tab fun _ => .held } }
    let m := { running with faults := { running.faults with policy := running.faults.policy.put 0 ⟨.note, true⟩ } }
    (m.faults.policy.get FaultKind.late.code).masked = true ∧ (s.faults.policy.get FaultKind.late.code).masked = false ∧
    resolveClass (s.faults.policy.get FaultKind.late.code).cls (.empty 0) s = .note ∧
    (s.faults.slots.get 31 = .free ∧ ∀ m : SlotId, m < 31 → s.faults.slots.get m ≠ .free) ∧
    (∀ n, x.faults.slots.get n ≠ .free) := by decide

theorem test_meets_ClassResolved :
    let s := { running with gangs := running.gangs.put 5 0x8000 }
    (∀ g, s.gangs.get g &&& 0x7FFF = 0) ∧ s.gangs.get 5 &&& 0x8000 ≠ 0 ∧ s.control.device = .running ∧
    (device .halted 0x800).control.device ≠ .running ∧ (FaultContext.empty 0).track = none := by decide

theorem test_meets_TrackEnds :
    let s := { track0 { fetching with queued := 0 } with directives := ⟨1, some ⟨1, 0⟩⟩ }
    (running.tracks.get 0).state.alive = false ∧ (s.tracks.get 0).state.alive = true ∧
    s.directives.drain = some ⟨1, 0⟩ ∧ ∃ r ∈ (s.tracks.get 0).openList, r.notifyOnRetire = true := by decide

theorem test_meets_ClassActions :
    let s := { withListener 3 { armed0 .skip none with owner := some 1 }
        (withWindow 2 { openWindow0 with owner := some 1 } (withTrack 1 fetching (window0 openWindow0))) with
      gangs := running.gangs.put 0 0x8000, lanes := ownedLanes.lanes, directives := ⟨1, some ⟨1, 1⟩⟩ }
    let c : FaultContext := { FaultContext.empty 0 with lanes := 0x8000 }
    (∃ g l, s.gangs.get g &&& c.lanes ≠ 0 ∧ laneIn (s.gangs.get g) l = true ∧ (s.lanes.get l).owner = some 1) ∧
    (s.tracks.get 1).state.alive = true ∧ (s.tracks.get 0).state.alive = false ∧
    (s.probes.windows.get 0).state = .isOpen ∧ (s.probes.windows.get 1).state ≠ .isOpen ∧
    ((s.probes.windows.get 2).owner = some 1 ∧ (s.probes.windows.get 2).state = .isOpen) ∧
    ((s.probes.listeners.get 3).armed = true ∧ (s.probes.listeners.get 3).owner = some 1) ∧
    ((s.probes.listeners.get 0).armed = false ∧ (s.probes.windows.get 0).owner = some 0) ∧
    ((s.lanes.get 0).owner = some 0 ∧ c.track = none) ∧
    s.directives.drain = some ⟨1, 1⟩ ∧ (segmentContext 3 0 0 0).track = some 3 := by
  refine ⟨⟨0, 15, by decide⟩, by decide⟩

/-! ### Segments -/

/-- T0 waiting for the header at 80h, linked from 40h. -/
def entering : Track := { fetching with segment := 0x80, fetch := none, linkSource := 0x40, stallPort := true }

/-- A header with one action, KEEP, RUN_LATE, not repeated. -/
def plainHeader : BitVec 256 := 0x1_0000000000000000

/-- A header with FRAME and DROP_LATE passes the checks. -/
theorem test_meets_HeaderChecks :
    headerValid entering 0x80 (Header.ofRecord 0x10201_0000000000000000) = some (.frame, .dropLate) := by decide

theorem test_meets_HeaderAccepted :
    let s := fun q => flying (.track 0 (.header 0x80 0 0)) (track0 { entering with quota := q })
    InFlightIs (s 2) (.track 0 (.header 0x80 0 0)) 0x2000 ∧ headerTaken ((s 2).tracks.get 0) 0x80 1 = false ∧
    (headerTaken ((s 2).tracks.get 0) 0x80 0 = true ∧
      headerValid ((s 2).tracks.get 0) 0x80 (Header.ofRecord plainHeader) = some (.keep, .runLate) ∧
      ((s 2).tracks.get 0).stallQuota = false ∧ ((s 2).tracks.get 0).stallSegments = false ∧
      ((s 2).tracks.get 0).queued < ((s 2).tracks.get 0).quota) ∧
    ((s 1).tracks.get 0).quota ≤ ((s 1).tracks.get 0).queued := by
  unfold InFlightIs
  decide

theorem test_meets_HeaderRefused :
    let s := flying (.track 0 (.header 0x80 0 0)) (track0 entering)
    let x := flying (.track 0 (.header 0x40 0 0)) (track0 { entering with segment := 0x40, linkSource := 0 })
    InFlightIs s (.track 0 (.header 0x80 0 0)) 0x2000 ∧ headerTaken (s.tracks.get 0) 0x80 0 = true ∧
    (headerValid (s.tracks.get 0) 0x80 (Header.ofRecord 0) = none ∧ ∀ r ∈ (s.tracks.get 0).openList, r.address ≠ 0x80) ∧
    headerTaken (x.tracks.get 0) 0x40 0 = true ∧ (∃ r ∈ (x.tracks.get 0).openList, r.address = 0x40) := by
  unfold InFlightIs
  decide

/-- SET L0 at REL 1000, and AWAIT P0 RISE under SKIP at REL 1000. -/
def setRecord : BitVec 256 := 0x3E8_0000000000000101
def awaitRecord : BitVec 256 := 0x3E8_0000000001000109

theorem test_meets_ActionRead :
    let s := flying (.track 0 (.action 0x40 1 0 0)) (track0 { fetching with stallPort := true })
    let k := s.tracks.get 0
    let e : Track := { k with stallPort := false, cursor := 2 }
    let f : FetchContext := ⟨4, .keep, .runLate, 0, false, 0⟩
    InFlightIs s (.track 0 (.action 0x40 1 0 0)) 0x2000 ∧ segmentTaken k 0x40 1 = false ∧
    (segmentTaken k 0x40 0 = true ∧ k.fetch = some f ∧ insertionOf 0 e f 1 0 = none) ∧
    (∃ r, insertionOf 0 e f 1 setRecord = some r ∧ r.action.isAwait = false) ∧
    (∃ r, insertionOf 0 e f 1 awaitRecord = some r ∧ r.action.isAwait = true ∧
      willDrop r (withTrack 0 e (released s)) = false) :=
  ⟨rfl, by decide, by decide, ⟨_, rfl, by decide⟩, ⟨_, rfl, by decide⟩⟩

theorem test_meets_FetchGoesOn :
    let f : FetchContext := ⟨4, .keep, .runLate, 0, false, 0⟩
    let k := fun (cursor quota : Nat) (g : FetchContext) => { fetching with cursor := cursor, quota := quota, fetch := some g }
    (Track.reset.state ≠ .active ∧ ({ fetching with stallPort := true } : Track).unstalled = false) ∧
    ((k 3 2 f).cursor < f.actionCount ∧ (k 3 2 f).queued < (k 3 2 f).quota ∧ (k 3 1 f).quota ≤ (k 3 1 f).queued) ∧
    (f.actionCount ≤ (k 4 2 f).cursor ∧ f.loop = false ∧ f.repeatCount ≤ (k 4 2 f).pass.toNat) ∧
    (k 4 2 { f with repeatCount := 1 }).pass.toNat < ({ f with repeatCount := 1 } : FetchContext).repeatCount ∧
    ({ f with loop := true } : FetchContext).loop = true ∧ fetching.state = .active ∧ fetching.unstalled = true ∧
    (0xFFFFFFFE#32).toNat < 2 ^ 32 - 1 ∧ (0xFFFFFFFF#32).toNat = 2 ^ 32 - 1 := by decide

theorem test_meets_SegmentEntryAndRetirement :
    let r : OpenSegment := ⟨0x40, true, 0, 1, 0, 1, true, false⟩
    let k : Track := { fetching with openList := [r] }
    fetching.openList.length < 4 ∧ 4 ≤ (List.replicate 4 r).length ∧
    (fetching.openList.find? (fun r => r.address == 0x40) = some ⟨0x40, true, 1, 0, 0, 0, false, false⟩) ∧
    (k.openList.find? (fun r => r.address == 0x40) = some r ∧ r.fullyFetched = true ∧ r.outstanding = 0) ∧
    k.pendingLink = none ∧ ({ k with pendingLink := some 0x80 } : Track).pendingLink = some 0x80 := by decide

theorem test_meets_LinkWordRead :
    let s := fun m => flying (.track 0 (.link 0x40 m 0 0)) (track0 { fetching with stallPort := true })
    InFlightIs (s true) (.track 0 (.link 0x40 true 0 0)) 0x2000 ∧ InFlightIs (s false) (.track 0 (.link 0x40 false 0 0)) 0x2000 ∧
    segmentTaken ((s true).tracks.get 0) 0x40 1 = false ∧ segmentTaken ((s true).tracks.get 0) 0x40 0 = true ∧
    ((s true).tracks.get 0).fetch = some ⟨4, .keep, .runLate, 0, false, 0⟩ ∧
    ((0x80#64 : Address) ≠ 0 ∧ (0x80#64).toNat % 64 = 0) ∧ (0x81#64).toNat % 64 ≠ 0 := by
  unfold InFlightIs
  decide

/-! ### Scan reads, writes, directives -/

theorem test_meets_TailAndFlagReads :
    let k : Track := { fetching with state := .parked, rejectedLink := some 0xC0 }
    let s := flying (.scan (.link 0 0x40)) (track0 k)
    let x := flying (.scan (.heldFlag 31)) { running with faults := { running.faults with slots := running.faults.slots.put 31 .held } }
    InFlightIs s (.scan (.link 0 0x40)) 0x2000 ∧ ((running.tracks.get 0).state ≠ .parked) ∧
    ((s.tracks.get 0).state = .parked ∧ (s.tracks.get 0).segment = 0x40 ∧ (s.tracks.get 0).rejectedLink = some 0xC0 ∧
      (s.tracks.get 0).rejectedLink ≠ some 0x80 ∧ (s.tracks.get 0).rejectedLink ≠ some 0x81) ∧
    InFlightIs x (.scan (.heldFlag 31)) 0x2000 ∧ (x.faults.slots.get 31 = .held ∧ (0xFFFFFFFE#32).getLsbD 0 = false) ∧
    running.faults.slots.get 31 ≠ .held ∧ (1#32).getLsbD 0 = true := by
  unfold InFlightIs
  decide

theorem test_meets_WritesCompleted :
    let r : CaptureRecord := ⟨0, 0x400, 0, 0, .rise⟩
    let s := fun (st : WindowState) (n : Nat) (cause : Option CloseCause) =>
      flying (.capture r) (window0 { openWindow0 with state := st, pending := n, cause := cause })
    (∀ a, InFlightIs (flying a running) a 0x2000) ∧ InFlightIs (s .isOpen 1 none) (.capture r) 0x2000 ∧
    ((s .isOpen 1 none).probes.windows.get 0).state ≠ .closing ∧ 1 < ((s .closing 2 (some .full)).probes.windows.get 0).pending ∧
    (((s .closing 1 (some .full)).probes.windows.get 0).state = .closing ∧
      ((s .closing 1 (some .full)).probes.windows.get 0).pending = 1 ∧
      ((s .closing 1 (some .full)).probes.windows.get 0).cause = some .full) := by
  refine ⟨fun a => rfl, rfl, ?_⟩
  decide

theorem test_meets_FailedAccesses :
    let h := flying (.track 0 (.header 0x80 0 0)) running
    let w : Window := { openWindow0 with state := .closing, pending := 1, cause := some .full }
    (∀ a, InFlightIs (flying a (window0 w)) a 0x2000) ∧
    (((window0 w).probes.windows.get 0).state = .closing ∧ ((window0 w).probes.windows.get 0).cause = some .full) ∧
    headerTaken (h.tracks.get 0) 0x80 0 = false ∧ segmentTaken (h.tracks.get 0) 0x80 0 = false := by
  refine ⟨fun a => rfl, ?_⟩
  decide

/-- A slot with a sequence number, a kind and argument 1. -/
def slotRecord (n kind arg : Nat) : BitVec 256 := BitVec.ofNat 256 (n + 65536 * kind + 2 ^ 64 * arg)

theorem test_meets_SlotReads :
    let s := flying (.scan .directiveSlot) running
    let x : State := { s with directives := ⟨4, some ⟨4, 2⟩⟩ }
    let d := fun n kind arg => DirectiveSlot.ofRecord (slotRecord n kind arg)
    InFlightIs s (.scan .directiveSlot) 0x2000 ∧ (d 0 1 0).sequence = 0 ∧ (d 4 1 0).sequence = x.directives.lastSeen ∧
    ((d 5 1 7).sequence ≠ 0 ∧ (d 5 1 7).sequence ≠ x.directives.lastSeen ∧ (d 5 1 7).kind.toNat = 1 ∧
      (d 5 1 7).arg1.toNat = (7 : TrackId).val) ∧
    ((d 5 1 8).kind.toNat = 1 ∧ 8 ≤ (d 5 1 8).arg1.toNat) ∧ (d 5 0 0).kind.toNat = 0 ∧ 10 < (d 5 11 0).kind.toNat ∧
    x.directives.drain = some ⟨4, 2⟩ ∧ s.directives.drain = none ∧ (d 5 2 0).kind.toNat = 2 ∧ (d 5 10 0).kind.toNat = 10 ∧
    (0#64).toNat ≠ (2 : TrackId).val := by
  unfold InFlightIs
  decide

/-- The directive slot read in flight, number 1 not yet seen. -/
def slotWaits (s : State) : State := flying (.scan .directiveSlot) s

theorem slotWaits_takes (s : State) (h : s.directives = ⟨0, none⟩) : SlotTakes (slotWaits s) 1 :=
  ⟨⟨0x2000, rfl⟩, by decide, by simp [slotWaits, flying, h], by simp [slotWaits, flying, h]⟩

theorem test_meets_TableDirectives :
    let s := slotWaits (queued [{ entryOf .set 200 1 with gang := some 5 }] ownedLanes)
    SlotTakes s 1 ∧ 6 ≤ (6#64).toNat ∧
    ((5#64).toNat = (5 : GangId).val ∧ (s.queue.entries.filter fun e => e.gang == some 5).length ≠ 0 ∧
      (s.queue.entries.filter fun e => e.gang == some 4).length = 0) ∧
    (16 ≤ (16#64).toNat ∧ (15#64).toNat < 16 ∧ 3 ≤ (3#64).toNat) ∧
    ((15#64).toNat = (15 : LaneId).val ∧ (2#64).toNat = Level.float.code ∧ (s.lanes.get 15).owner = some 1 ∧
      (s.lanes.get 14).owner = none) ∧
    (12 ≤ (12#64).toNat ∧ (11#64).toNat < 12 ∧ 4 ≤ (4#64).toNat ∧ (3#64).toNat < 4 ∧ 2 ≤ (2#64).toNat) ∧
    ((11#64).toNat = FaultKind.busWrite.code.val ∧ (3#64).toNat = FaultClass.device.code ∧ (1#64).toNat = true.toNat) ∧
    (2 ^ 12 ≤ (0x1000#64).toNat ∧ (0xFFF#64).toNat < 2 ^ 12) := by
  refine ⟨slotWaits_takes _ rfl, ?_⟩
  decide

theorem test_meets_TimeDirectives :
    SlotTakes (slotWaits running) 1 ∧ (slotWaits running).control.device ≠ .stopped ∧
    SlotTakes (slotWaits (device .stopped 0x800)) 1 ∧ (slotWaits (device .stopped 0x800)).control.device = .stopped ∧
    2 ^ 63 ≤ (0x8000000000000000#64).toNat ∧ (0x7FFFFFFFFFFFFFFF#64).toNat < 2 ^ 63 ∧
    (11#64).toNat < 12 ∧ 24 < (25#64).toNat ∧ 12 ≤ (12#64).toNat ∧ (24#64).toNat ≤ 24 :=
  ⟨slotWaits_takes _ rfl, by decide, slotWaits_takes _ rfl, by decide⟩

theorem test_meets_TrackDirectives :
    let s := fun (d : DeviceState) k => slotWaits (withTrack 7 k (device d 0x800))
    let closing : State := { running with directives := ⟨1, some ⟨1, 7⟩⟩ }
    (∀ d k, SlotTakes (s d k) 1) ∧ 8 ≤ (8#64).toNat ∧ (7#64).toNat = (7 : TrackId).val ∧
    (s .halted fetching).control.device ≠ .running ∧ (s .running fetching).control.device = .running ∧
    (((s .stopped { Track.reset with state := .halted, haltKind := some .late }).tracks.get 7).state = .halted ∧
      ((s .stopped { Track.reset with state := .halted, haltKind := some .late }).tracks.get 7).haltKind = some .late) ∧
    ((s .running Track.reset).tracks.get 7).state = .off ∧
    (∀ o ∈ [none, some (AwaitOutcome.taken 7)],
      ((s .running { fetching with state := .awaiting, outcome := o }).tracks.get 7).state = .awaiting ∧
      ((s .running { fetching with state := .awaiting, outcome := o }).tracks.get 7).outcome = o) ∧
    (∀ o ∈ [AwaitOutcome.edge 100, .timeoutSkip, .timeoutFault 100],
      ((s .running { fetching with state := .awaiting, outcome := some o }).tracks.get 7).state = .awaiting ∧
      ((s .running { fetching with state := .awaiting, outcome := some o }).tracks.get 7).outcome = some o ∧
      o.onItsWay = true) ∧
    ((s .running { fetching with state := .closing }).tracks.get 7).state = .closing ∧
    (((s .running fetching).tracks.get 7).state = .active ∧
      ((s .running fetching).tracks.get 7).queued ≠ 0) ∧
    ((s .running { fetching with queued := 0 }).tracks.get 7).queued = 0 ∧
    (closing.directives.drain = some ⟨1, 7⟩ ∧ (closing.tracks.get 7).pendingLink = none) := by
  refine ⟨fun d k => slotWaits_takes _ rfl, ?_⟩
  decide

theorem test_meets_TrackDirectives_drain :
    let s := fun (d : DeviceState) (st : TrackState) =>
      { flying (.scan .directiveSlot) (withTrack 7 { fetching with state := st } (device d 0x800)) with
        directives := ⟨4, some ⟨4, 7⟩⟩ }
    (∀ d st, InFlightIs (s d st) (.scan .directiveSlot) 0x2000) ∧ (5 : Word16) ≠ 0 ∧
    5 ≠ (s .running .closing).directives.lastSeen ∧ (s .running .closing).directives.drain = some ⟨4, 7⟩ ∧
    (7#64).toNat = (7 : TrackId).val ∧ (s .halted .closing).control.device ≠ .running ∧
    ((s .running .off).control.device = .running ∧ ((s .running .off).tracks.get 7).state.alive = false) ∧
    ((s .running .closing).tracks.get 7).state.alive = true := by
  refine ⟨fun d st => rfl, ?_⟩
  decide

theorem test_meets_StartTrackExecuted :
    let s := fun k => flying (.scan (.descriptor 7 1)) (withTrack 7 k running)
    let x : State := { s Track.reset with directives := ⟨4, some ⟨4, 2⟩⟩ }
    let room := fun v : State =>
      64 - (allTracks.map fun t => if (v.tracks.get t).state = .off then 0 else (v.tracks.get t).quota).sum
    let d := fun head quota : Nat => Descriptor.ofRecord (BitVec.ofNat 128 (head + 2 ^ 64 * quota))
    InFlightIs (s Track.reset) (.scan (.descriptor 7 1)) 0x2000 ∧ x.directives.drain = some ⟨4, 2⟩ ∧
    (s Track.reset).directives.drain = none ∧ (device .halted 0x800).control.device ≠ .running ∧
    ((s fetching).control.device = .running ∧ ((s fetching).tracks.get 7).state ≠ .off) ∧
    (∀ o ∈ [none, some (AwaitOutcome.taken 7), some (.edge 100), some .timeoutSkip, some (.timeoutFault 100)],
      ((s { fetching with state := .awaiting, outcome := o }).tracks.get 7).state = .awaiting ∧
      ((s { fetching with state := .awaiting, outcome := o }).tracks.get 7).outcome = o) ∧
    ((s Track.reset).tracks.get 7).state = .off ∧ (d 0x40 0).quota = 0 ∧ room (s Track.reset) < (d 0x40 65).quota ∧
    ((d 0x40 64).quota ≠ 0 ∧ (d 0x40 64).quota ≤ room (s Track.reset)) ∧ (d 0 1).head = 0 ∧
    (d 0x41 1).head.toNat % 64 ≠ 0 ∧ ((d 0x40 64).head ≠ 0 ∧ (d 0x40 64).head.toNat % 64 = 0) := by
  unfold InFlightIs
  decide

end Sys2Proof.Tests
end

section
/-! SUPPORT. The timebase and its frames: the next frame boundary as a number (R6), the TIME_LO read (R9), and the two
directives that set the count and F (R7, R8). -/

namespace Sys2Proof.Machine.Timebase

open Sys2Proof.Machine.Laws

/-! ## Frames (R4 to R6) -/

theorem add64_toNat {a : Word64} {n : Nat} (h : a.toNat + n < 2 ^ 64) : (add64 a n).toNat = a.toNat + n := by
  unfold add64
  rw [if_pos h, BitVec.toNat_ofNat, Nat.mod_eq_of_lt h]

theorem frameStart_mod (F : Nat) (t : Instant) : frameStart F t % 2 ^ F = 0 := Nat.mul_mod_left _ _

theorem frameStart_le (F : Nat) (t : Instant) : frameStart F t ≤ t.toNat := Nat.div_mul_le_self _ _

theorem lt_frameStart_add (F : Nat) (t : Instant) : t.toNat < frameStart F t + 2 ^ F :=
  Nat.lt_div_mul_add (Nat.two_pow_pos F)

/-- An instant on a boundary starts its own frame. -/
theorem frameStart_of_boundary {F : Nat} {t : Instant} (h : t.toNat % 2 ^ F = 0) : frameStart F t = t.toNat :=
  Nat.div_mul_cancel (Nat.dvd_of_mod_eq_zero h)

/-- No multiple of 2^F lies strictly between an instant and the end of its frame: beyond `t` the quotient is larger. -/
theorem frameEnd_le_of_boundary {F m : Nat} {t : Instant} (hm : m % 2 ^ F = 0) (ht : t.toNat < m) :
    frameStart F t + 2 ^ F ≤ m := by
  have hquot : t.toNat / 2 ^ F < m / 2 ^ F := by
    rw [Nat.div_lt_iff_lt_mul (Nat.two_pow_pos F), Nat.div_mul_cancel (Nat.dvd_of_mod_eq_zero hm)]
    exact ht
  calc frameStart F t + 2 ^ F = (t.toNat / 2 ^ F + 1) * 2 ^ F := (Nat.succ_mul _ _).symm
    _ ≤ m / 2 ^ F * 2 ^ F := Nat.mul_le_mul_right _ hquot
    _ = m := Nat.div_mul_cancel (Nat.dvd_of_mod_eq_zero hm)

/-- The next frame boundary is the end of the frame (R6). -/
theorem nextBoundary_toNat {F : Nat} {t : Instant} (h : t.toNat + 2 ^ F < 2 ^ 64) :
    (nextBoundary F t).toNat = frameStart F t + 2 ^ F := by
  have hle := frameStart_le F t
  have hlt := lt_frameStart_add F t
  have hsum : t.toNat + (frameStart F t + 2 ^ F - t.toNat) = frameStart F t + 2 ^ F := by omega
  have hfits : frameStart F t + 2 ^ F < 2 ^ 64 := by omega
  unfold nextBoundary
  rw [add64_toNat (hsum.trans_lt hfits), hsum]

/-- Settles O28: the end of `t`'s frame is a multiple of 2^F beyond `t`, and no smaller one is. -/
theorem nextBoundaryIsLeast : Obligations.NextBoundaryIsLeast := by
  intro F t hfits
  rw [nextBoundary_toNat hfits]
  refine ⟨?multiple, lt_frameStart_add F t, fun m => frameEnd_le_of_boundary,
    ⟨frameStart F t, frameStart_mod F t, frameStart_le F t, lt_frameStart_add F t, rfl⟩, ?onBoundary, fun _ _ => rfl⟩
  case multiple => rw [Nat.add_mod_right, frameStart_mod]
  case onBoundary =>
    intro h
    rw [frameStart_of_boundary h]

/-! ## TIME_LO (R9) -/

/-- While RESET_N is high an access of the register window takes its effect and is answered (R168). -/
theorem hostAccess_of_high {r : Response} {f : State → State} {s : State} (h : s.control.resetLow = false) :
    hostAccess r f s = .next (respond r (f s)) := by
  unfold hostAccess
  rw [h]
  rfl

theorem readTimeLo_eq (s : State) : readTimeLo s = s.timebase.count.extractLsb' 0 32 :=
  BitVec.setWidth_eq_extractLsb' (by decide)

theorem exec_timeLoRead {s : State} (h : s.control.resetLow = false) :
    exec .timeLoRead s = .next
      { s with timebase := { s.timebase with timeHi := s.timebase.count.extractLsb' 32 32 }
               control := { s.control with response := some (.data (s.timebase.count.extractLsb' 0 32)) } } := by
  have hexec : exec .timeLoRead s = execTimeLoRead s := rfl
  rw [hexec, execTimeLoRead, hostAccess_of_high h, readTimeLo_eq]
  rfl

/-- A write of a register that takes none is answered and changes nothing else (R168). -/
theorem exec_registerWriteNoEffect {s : State} (r : QuietRegister) (v : Word32) (h : s.control.resetLow = false) :
    exec (.registerWriteNoEffect r v) s = .next { s with control := { s.control with response := some .written } } :=
  hostAccess_of_high h

/-- Settles O13: with RESET_N high both accesses take their effect; offset 18h is word 6 of the register window. -/
theorem timeLoReadLatchesHighHalf : Obligations.TimeLoReadLatchesHighHalf := fun _ hhigh =>
  ⟨exec_timeLoRead hhigh, fun v => exec_registerWriteNoEffect .timeLo v hhigh, fun _ _ => rfl, fun _ _ => rfl⟩

/-! ## LOAD_TIME and SET_FRAME (R7, R8) -/

/-- A slot that is taken and has no descriptor to read is executed at its slot read (R138, R139). -/
theorem slotCompletes_of_takes {s : State} {d : DirectiveSlot} (h : SlotTakes s d.sequence) (hk : d.kind.toNat ≠ 1) :
    slotCompletes d s = scanGoesOn (executeDirective d (slotTakenState d.sequence s)) := by
  obtain ⟨⟨a, hflight⟩, hzero, hseen, -⟩ := h
  rw [slotCompletes_flight hflight, slotReadDone_executes hzero hseen (.inl hk)]

/-- No drain is in progress where the slot is taken, so the directive is no OVERLAP (R153). -/
theorem overlapping_of_takes {s : State} {n : Word16} {d : DirectiveSlot} (h : SlotTakes s n) :
    overlapping d (slotTakenState n s) = none := by
  obtain ⟨-, -, -, hdrain⟩ := h
  exact overlapping_none hdrain

variable {s v : State} {d : DirectiveSlot} {n : Word16} {x : Word64} {o : DirectiveOutcome} {k : Nat}

theorem answer_eq : answer d o k s = withResult d.sequence o (BitVec.ofNat 32 k) s := rfl

theorem executeDirective_loadTime (hk : d.kind = 9) (h : overlapping d s = none) :
    executeDirective d s = directiveLoadTime d s := by
  unfold executeDirective
  rw [h, hk]
  rfl

theorem executeDirective_setFrame (hk : d.kind = 10) (h : overlapping d s = none) :
    executeDirective d s = directiveSetFrame d s := by
  unfold executeDirective
  rw [h, hk]
  rfl

/-- A LOAD_TIME that is taken answers as its effect does, and the scan goes on. -/
theorem exec_loadTime (h : SlotTakes s n)
    (he : directiveLoadTime ⟨n, 9, x, 0, 0⟩ (slotTakenState n s) = answer ⟨n, 9, x, 0, 0⟩ o k v) :
    exec (.loadTime n x) s = .next (scanGoesOn (withResult n o (BitVec.ofNat 32 k) v)) := by
  have hslot := slotCompletes_of_takes (d := ⟨n, 9, x, 0, 0⟩) h (by decide : (9 : Byte).toNat ≠ 1)
  rw [executeDirective_loadTime rfl (overlapping_of_takes h), he, answer_eq] at hslot
  exact congrArg _ hslot

/-- A SET_FRAME that is taken answers as its effect does, and the scan goes on. -/
theorem exec_setFrame (h : SlotTakes s n)
    (he : directiveSetFrame ⟨n, 10, x, 0, 0⟩ (slotTakenState n s) = answer ⟨n, 10, x, 0, 0⟩ o k v) :
    exec (.setFrame n x) s = .next (scanGoesOn (withResult n o (BitVec.ofNat 32 k) v)) := by
  have hslot := slotCompletes_of_takes (d := ⟨n, 10, x, 0, 0⟩) h (by decide : (10 : Byte).toNat ≠ 1)
  rw [executeDirective_setFrame rfl (overlapping_of_takes h), he, answer_eq] at hslot
  exact congrArg _ hslot

/-! The branches of the two effects, in the order of their checks (R165). -/

theorem directiveLoadTime_deviceState (h : s.control.device ≠ .stopped) :
    directiveLoadTime d s = answer d .refusedDeviceState s.control.device.code s := if_pos h

theorem directiveLoadTime_argument (h : s.control.device = .stopped) (hx : 2 ^ 63 ≤ d.arg1.toNat) :
    directiveLoadTime d s = answer d .refusedArgument 1 s :=
  (if_neg (not_not_intro h)).trans (if_pos hx)

theorem directiveLoadTime_done (h : s.control.device = .stopped) (hx : d.arg1.toNat < 2 ^ 63) :
    directiveLoadTime d s = answer d .done 0 { s with timebase := { s.timebase with count := d.arg1 } } :=
  (if_neg (not_not_intro h)).trans (if_neg (Nat.not_le.mpr hx))

theorem directiveSetFrame_deviceState (h : s.control.device ≠ .stopped) :
    directiveSetFrame d s = answer d .refusedDeviceState s.timebase.frame s := if_pos h

theorem directiveSetFrame_argument (h : s.control.device = .stopped) (hx : d.arg1.toNat < 12 ∨ 24 < d.arg1.toNat) :
    directiveSetFrame d s = answer d .refusedArgument s.timebase.frame s :=
  (if_neg (not_not_intro h)).trans (if_pos hx)

theorem directiveSetFrame_done (h : s.control.device = .stopped) (hlo : 12 ≤ d.arg1.toNat) (hhi : d.arg1.toNat ≤ 24) :
    directiveSetFrame d s =
      answer d .done d.arg1.toNat { s with timebase := { s.timebase with frame := d.arg1.toNat } } :=
  (if_neg (not_not_intro h)).trans (if_neg (by omega))

/-- Settles O58: each check that fails answers the directive, and one that fails none is DONE. -/
theorem timeDirectives : Obligations.TimeDirectives := by
  intro s n x htakes u answered
  refine ⟨fun hdevice => ⟨?loadDeviceState, ?frameDeviceState⟩, fun hstopped =>
    ⟨fun hbig => ?loadArgument, fun hsmall => ?loadDone, fun hout => ?frameArgument, fun hlo hhi => ?frameDone⟩⟩
  case loadDeviceState => exact exec_loadTime htakes (directiveLoadTime_deviceState hdevice)
  case frameDeviceState => exact exec_setFrame htakes (directiveSetFrame_deviceState hdevice)
  case loadArgument => exact exec_loadTime htakes (directiveLoadTime_argument hstopped hbig)
  case loadDone => exact exec_loadTime htakes (directiveLoadTime_done hstopped hsmall)
  case frameArgument => exact exec_setFrame htakes (directiveSetFrame_argument hstopped hout)
  case frameDone => exact exec_setFrame htakes (directiveSetFrame_done hstopped hlo hhi)

end Sys2Proof.Machine.Timebase
end

section
/-! SUPPORT. The fault collector: the class applied to a fault (R117). -/

namespace Sys2Proof.Machine.AppliedClass

variable {c : FaultContext} {s : State} {gangs : Table 6 LaneSet} {C : LaneSet}

theorem mem_allGangs (g : GangId) : g ∈ allGangs := by revert g; decide

/-- The gang test of R117 runs over the list of gangs, and every gang stands in it. -/
theorem gangMeets_iff : gangMeets gangs C = true ↔ ∃ g, gangs.get g &&& C ≠ 0 := by
  simp [gangMeets, mem_allGangs]

/-- No gang meets the empty lane set, nor a set that each gang's lanes leave out. -/
theorem not_gangMeets (h : C = 0 ∨ ∀ g, gangs.get g &&& C = 0) : ¬ gangMeets gangs C = true := by
  rw [gangMeets_iff]
  rintro ⟨g, hmeets⟩
  rcases h with rfl | hdisjoint
  · exact hmeets BitVec.and_zero
  · exact hmeets (hdisjoint g)

/-! The rows of R117's table, one lemma a row. -/

theorem resolveClass_note : resolveClass .note c s = .note := rfl

theorem resolveClass_track_of_track (h : c.track ≠ none) : resolveClass .track c s = .track :=
  if_pos (Option.isSome_iff_ne_none.mpr h)

theorem resolveClass_track_of_no_track (h : c.track = none) : resolveClass .track c s = .note :=
  if_neg (by simp [h])

theorem resolveClass_gang_of_meets (h : gangMeets s.gangs c.lanes = true) : resolveClass .gang c s = .gang :=
  if_pos h

theorem resolveClass_gang_of_not_meets (h : ¬ gangMeets s.gangs c.lanes = true) :
    resolveClass .gang c s = resolveClass .track c s :=
  if_neg h

theorem resolveClass_device_of_running (h : s.control.device = .running) : resolveClass .device c s = .device :=
  if_pos h

theorem resolveClass_device_of_not_running (h : s.control.device ≠ .running) : resolveClass .device c s = .note :=
  if_neg h

/-- Settles O42: each row of R117's table is a branch of the resolution, the gang rows by the gang test. -/
theorem classResolved : Obligations.ClassResolved := by
  intro c s
  refine ⟨resolveClass_note, resolveClass_track_of_track, resolveClass_track_of_no_track, fun hnone => ?gangNone,
    fun g hmeets => ?gangSome, resolveClass_device_of_running, resolveClass_device_of_not_running⟩
  case gangNone => exact resolveClass_gang_of_not_meets (not_gangMeets hnone)
  case gangSome => exact resolveClass_gang_of_meets (gangMeets_iff.mpr ⟨g, hmeets⟩)

end Sys2Proof.Machine.AppliedClass
end

section
/-! SUPPORT. The arbiter: which request of which class it grants next (R131), and the round robin of class 3 (R132). -/

namespace Sys2Proof.Machine.Arbiter

open Sys2Proof.Machine.Laws

/-! ## The round robin of class 3 (R132) -/

variable {p : Port} {cs : List CaptureRecord} {d : Fin 8} {r : TrackRequest} {rs : List TrackRequest}

theorem allTracks_split (d : Fin 8) : allTracks = allTracks.take d ++ d :: allTracks.drop (d + 1) := by
  revert d; decide

theorem lt_of_mem_take_allTracks {e : Fin 8} : e ∈ allTracks.take d → e < d := by
  revert d e; decide

/-- In the round-robin order only the tracks at smaller distances behind the pointer come before the one at `d`. -/
theorem roundRobinOrder_split (last : TrackId) (d : Fin 8) :
    ∃ before after, roundRobinOrder last = before ++ (last + 1 + d) :: after ∧
      ∀ t ∈ before, ∃ e < d, last + 1 + e = t := by
  refine ⟨(allTracks.take d).map (last + 1 + ·), (allTracks.drop (d + 1)).map (last + 1 + ·), ?_, fun t ht => ?_⟩
  · rw [← List.map_cons, ← List.map_append, ← allTracks_split]
    rfl
  · obtain ⟨e, he, rfl⟩ := List.mem_map.mp ht
    exact ⟨e, lt_of_mem_take_allTracks he, rfl⟩

/-- The first track after the pointer with a request is served, its oldest request first. -/
theorem nextTrackRequest_first (hd : p.tracks.get (p.roundRobin + 1 + d) = r :: rs)
    (hbefore : ∀ e < d, p.tracks.get (p.roundRobin + 1 + e) = []) :
    nextTrackRequest p = some (p.roundRobin + 1 + d, r) := by
  obtain ⟨before, after, horder, hmem⟩ := roundRobinOrder_split p.roundRobin d
  refine List.findSome?_eq_some_iff.mpr ⟨before, _, after, horder, by rw [hd]; rfl, fun t ht => ?_⟩
  obtain ⟨e, he, rfl⟩ := hmem t ht
  rw [hbefore e he]
  rfl

theorem nextTrackRequest_none (h : ∀ t, p.tracks.get t = []) : nextTrackRequest p = none :=
  List.findSome?_eq_none_iff.mpr fun t _ => by rw [h t]; rfl

/-! ## The order of the classes (R131) -/

theorem nextAccess_summary {w : BucketSummary} {ws : List BucketSummary} (h : p.summaries = w :: ws) :
    nextAccess cs p = some (.bucketSummary w) := by
  unfold nextAccess
  rw [h]

theorem nextAccess_capture (c : CaptureRecord) (h : p.summaries = []) :
    nextAccess (c :: cs) p = some (.capture c) := by
  rw [nextAccess, h]

theorem nextAccess_incident {w : IncidentWrite} {ws : List IncidentWrite} (h : p.summaries = [])
    (hi : p.incidents = w :: ws) : nextAccess [] p = some (.incident w) := by
  rw [nextAccess, h, hi]

theorem nextAccess_track {t : TrackId} (h : p.summaries = []) (hi : p.incidents = [])
    (ht : nextTrackRequest p = some (t, r)) : nextAccess [] p = some (.track t r) := by
  rw [nextAccess, h, hi, ht]

theorem nextAccess_scan {x : ScanRead} (h : p.summaries = []) (hi : p.incidents = [])
    (ht : nextTrackRequest p = none) (hx : p.scanRead = some x) : nextAccess [] p = some (.scan x) := by
  rw [nextAccess, h, hi, ht, hx]

theorem nextAccess_out {w : OutWrite} {ws : List OutWrite} (h : p.summaries = []) (hi : p.incidents = [])
    (ht : nextTrackRequest p = none) (hx : p.scanRead = none) (ho : p.out = w :: ws) :
    nextAccess [] p = some (.out w) := by
  rw [nextAccess, h, hi, ht, hx, ho]

theorem nextAccess_idle (h : p.summaries = []) (hi : p.incidents = []) (ht : nextTrackRequest p = none)
    (hx : p.scanRead = none) (ho : p.out = []) : nextAccess [] p = none := by
  rw [nextAccess, h, hi, ht, hx, ho]

/-! ## What a grant takes from its class -/

theorem removeGranted_track (t : TrackId) (r : TrackRequest) (p : Port) :
    removeGranted (.track t r) p = { p with tracks := p.tracks.put t (p.tracks.get t).tail, roundRobin := t } := rfl

theorem removeGranted_track_get {t : TrackId} (h : p.tracks.get t = r :: rs) :
    (removeGranted (.track t r) p).tracks.get t = rs := by
  rw [removeGranted_track, Table.get_put, if_pos rfl, h, List.tail_cons]

/-- Settles O25: the classes are looked at in their order, and class 3 from the track after the pointer. -/
theorem arbiterOrder : Obligations.ArbiterOrder := by
  refine ⟨fun t r s => requestTrack_eq s t r, rfl, fun p =>
    ⟨fun _ => rfl, fun _ => rfl, fun _ => rfl, fun t r => removeGranted_track t r p, fun _ => rfl, fun _ => rfl⟩,
    fun cs p => ⟨fun _ _ => nextAccess_summary, ?captures, ?incidents, ?tracks, ?rest⟩⟩
  case captures =>
    rintro c rest hsummaries rfl
    exact nextAccess_capture c hsummaries
  case incidents =>
    rintro w ws hsummaries rfl hincidents
    exact nextAccess_incident hsummaries hincidents
  case tracks =>
    rintro d r rs hsummaries rfl hincidents hfirst hbefore
    exact ⟨nextAccess_track hsummaries hincidents (nextTrackRequest_first hfirst hbefore), rfl,
      removeGranted_track_get hfirst⟩
  case rest =>
    rintro hsummaries rfl hincidents htracks
    have hnone := nextTrackRequest_none htracks
    exact ⟨fun _ => nextAccess_scan hsummaries hincidents hnone, fun _ _ => nextAccess_out hsummaries hincidents hnone,
      nextAccess_idle hsummaries hincidents hnone⟩

end Sys2Proof.Machine.Arbiter
end

section
/-! SUPPORT. The directives that write the device's tables: SET_GANG (R161), CONFIGURE_LANE (R162), SET_FAULT_POLICY
(R163) and ACK_FAULTS (R164, R127), each taken at its slot read. -/

namespace Sys2Proof.Machine.TableDirectives

open Sys2Proof.Machine.Laws Sys2Proof.Machine.Timebase

/-! ## Codes (spec 10.2) -/

theorem codeTable : CodeTable := by
  refine ⟨?_, ?_, ?_, ?_, ?_, ?_, ?_, ?_, ?_, ?_⟩ <;> intro v <;> cases v <;> rfl

theorem level_ofCode_code (v : Level) : Level.ofCode v.code = some v := by cases v <;> rfl

theorem level_ofCode_none {c : Nat} (h : 3 ≤ c) : Level.ofCode c = none := by
  obtain ⟨k, rfl⟩ := Nat.exists_eq_add_of_le' h
  rfl

theorem faultClass_ofCode_code (c : FaultClass) : FaultClass.ofCode c.code = some c := by cases c <;> rfl

theorem faultClass_ofCode_none {c : Nat} (h : 4 ≤ c) : FaultClass.ofCode c = none := by
  obtain ⟨k, rfl⟩ := Nat.exists_eq_add_of_le' h
  rfl

theorem faultClass_ofCode_of_lt {c : Nat} (h : c < 4) : ∃ k, FaultClass.ofCode c = some k := by
  interval_cases c
  exacts [⟨.note, rfl⟩, ⟨.track, rfl⟩, ⟨.gang, rfl⟩, ⟨.device, rfl⟩]

theorem indexIn_of_lt {n k : Nat} (h : k < n) : indexIn n k = some ⟨k, h⟩ := dif_pos h

/-- A flag argument is 0 or 1, read as an index of two. -/
theorem indexIn_two_flag (m : Bool) : ∃ i, indexIn 2 m.toNat = some i ∧ (i == 1) = m := by
  cases m
  · exact ⟨0, rfl, rfl⟩
  · exact ⟨1, rfl, rfl⟩

/-! ## From the slot read to the directive's effect (R138, R152) -/

variable {s v : State} {d : DirectiveSlot} {n : Word16} {x y z : Word64} {o : DirectiveOutcome} {k : Nat}

/-- A row that completes the slot read with a directive other than START_TRACK answers as the directive's execution does,
and the scan goes on. -/
theorem exec_of_executed {c : Instr} (hc : exec c s = .next (slotCompletes d s)) (h : SlotTakes s d.sequence)
    (hk : d.kind.toNat ≠ 1) (he : executeDirective d (slotTakenState d.sequence s) = answer d o k v) :
    exec c s = .next (scanGoesOn (withResult d.sequence o (BitVec.ofNat 32 k) v)) := by
  rw [hc, slotCompletes_of_takes h hk, he, answer_eq]

theorem executeDirective_setGang (hk : d.kind = 5) (h : overlapping d s = none) :
    executeDirective d s = directiveSetGang d s := by
  unfold executeDirective
  rw [h, hk]
  rfl

theorem executeDirective_configureLane (hk : d.kind = 6) (h : overlapping d s = none) :
    executeDirective d s = directiveConfigureLane d s := by
  unfold executeDirective
  rw [h, hk]
  rfl

theorem executeDirective_setPolicy (hk : d.kind = 7) (h : overlapping d s = none) :
    executeDirective d s = directiveSetPolicy d s := by
  unfold executeDirective
  rw [h, hk]
  rfl

theorem executeDirective_ack (hk : d.kind = 8) (h : overlapping d s = none) :
    executeDirective d s = directiveAck d s := by
  unfold executeDirective
  rw [h, hk]
  rfl

theorem exec_setGang (h : SlotTakes s n)
    (he : directiveSetGang ⟨n, 5, x, y, 0⟩ (slotTakenState n s) = answer ⟨n, 5, x, y, 0⟩ o k v) :
    exec (.setGang n x y) s = .next (scanGoesOn (withResult n o (BitVec.ofNat 32 k) v)) :=
  exec_of_executed rfl h (by decide : (5 : Byte).toNat ≠ 1)
    ((executeDirective_setGang rfl (overlapping_of_takes h)).trans he)

theorem exec_configureLane (h : SlotTakes s n)
    (he : directiveConfigureLane ⟨n, 6, x, y, 0⟩ (slotTakenState n s) = answer ⟨n, 6, x, y, 0⟩ o k v) :
    exec (.configureLane n x y) s = .next (scanGoesOn (withResult n o (BitVec.ofNat 32 k) v)) :=
  exec_of_executed rfl h (by decide : (6 : Byte).toNat ≠ 1)
    ((executeDirective_configureLane rfl (overlapping_of_takes h)).trans he)

theorem exec_setFaultPolicy (h : SlotTakes s n)
    (he : directiveSetPolicy ⟨n, 7, x, y, z⟩ (slotTakenState n s) = answer ⟨n, 7, x, y, z⟩ o k v) :
    exec (.setFaultPolicy n x y z) s = .next (scanGoesOn (withResult n o (BitVec.ofNat 32 k) v)) :=
  exec_of_executed rfl h (by decide : (7 : Byte).toNat ≠ 1)
    ((executeDirective_setPolicy rfl (overlapping_of_takes h)).trans he)

theorem exec_ackFaults (h : SlotTakes s n)
    (he : directiveAck ⟨n, 8, x, 0, 0⟩ (slotTakenState n s) = answer ⟨n, 8, x, 0, 0⟩ o k v) :
    exec (.ackFaults n x) s = .next (scanGoesOn (withResult n o (BitVec.ofNat 32 k) v)) :=
  exec_of_executed rfl h (by decide : (8 : Byte).toNat ≠ 1)
    ((executeDirective_ack rfl (overlapping_of_takes h)).trans he)

/-! ## SET_GANG: its checks in order (R81, R161) -/

theorem directiveSetGang_argument (h : 6 ≤ d.arg1.toNat) : directiveSetGang d s = answer d .refusedArgument 1 s := by
  unfold directiveSetGang
  rw [indexIn_none h]

theorem directiveSetGang_inUse {g : GangId} (hg : d.arg1.toNat = g.val) (huses : gangUses g s ≠ 0) :
    directiveSetGang d s = answer d .refusedInUse (gangUses g s) s := by
  unfold directiveSetGang
  rw [indexIn_some hg]
  exact if_pos huses

theorem directiveSetGang_done {g : GangId} (hg : d.arg1.toNat = g.val) (huses : gangUses g s = 0) :
    directiveSetGang d s =
      answer d .done (s.gangs.get g).toNat { s with gangs := s.gangs.put g (d.arg2.extractLsb' 0 16) } := by
  unfold directiveSetGang
  rw [indexIn_some hg, ← BitVec.setWidth_eq_extractLsb' (by decide)]
  exact if_neg (not_not_intro huses)

/-! ## CONFIGURE_LANE: its checks in order (R68, R162) -/

theorem directiveConfigureLane_argument1 (h : 16 ≤ d.arg1.toNat) :
    directiveConfigureLane d s = answer d .refusedArgument 1 s := by
  unfold directiveConfigureLane
  rw [indexIn_none h]

theorem directiveConfigureLane_argument2 (hl : d.arg1.toNat < 16) (h : 3 ≤ d.arg2.toNat) :
    directiveConfigureLane d s = answer d .refusedArgument 2 s := by
  unfold directiveConfigureLane
  rw [indexIn_of_lt hl, level_ofCode_none h]

theorem directiveConfigureLane_inUse {l : LaneId} {v : Level} {t : TrackId} (hl : d.arg1.toNat = l.val)
    (hv : d.arg2.toNat = v.code) (howner : (s.lanes.get l).owner = some t) :
    directiveConfigureLane d s = answer d .refusedInUse t.val s := by
  unfold directiveConfigureLane
  rw [indexIn_some hl, hv, level_ofCode_code]
  simp only [howner]

theorem modify_configure (lanes : Table 16 Lane) (l : LaneId) (v : Level) :
    lanes.modify l (Lane.configure v) = lanes.put l { lanes.get l with safe := v, level := v } := rfl

theorem directiveConfigureLane_done {l : LaneId} {v : Level} (hl : d.arg1.toNat = l.val)
    (hv : d.arg2.toNat = v.code) (howner : (s.lanes.get l).owner = none) :
    directiveConfigureLane d s = answer d .done (s.lanes.get l).safe.code
      { s with lanes := s.lanes.put l { s.lanes.get l with safe := v, level := v } } := by
  unfold directiveConfigureLane
  rw [indexIn_some hl, hv, level_ofCode_code, ← modify_configure]
  simp only [howner]

/-! ## SET_FAULT_POLICY: its checks in order (R112, R163) -/

theorem directiveSetPolicy_argument1 (h : 12 ≤ d.arg1.toNat) :
    directiveSetPolicy d s = answer d .refusedArgument 1 s := by
  unfold directiveSetPolicy
  rw [indexIn_none h]

theorem directiveSetPolicy_argument2 (hk : d.arg1.toNat < 12) (h : 4 ≤ d.arg2.toNat) :
    directiveSetPolicy d s = answer d .refusedArgument 2 s := by
  unfold directiveSetPolicy
  rw [indexIn_of_lt hk, faultClass_ofCode_none h]

theorem directiveSetPolicy_argument3 (hk : d.arg1.toNat < 12) (hc : d.arg2.toNat < 4) (h : 2 ≤ d.arg3.toNat) :
    directiveSetPolicy d s = answer d .refusedArgument 3 s := by
  obtain ⟨c, hclass⟩ := faultClass_ofCode_of_lt hc
  unfold directiveSetPolicy
  rw [indexIn_of_lt hk, hclass, indexIn_none h]

theorem directiveSetPolicy_done {kind : Fin 12} {c : FaultClass} {m : Bool} (hk : d.arg1.toNat = kind.val)
    (hc : d.arg2.toNat = c.code) (hm : d.arg3.toNat = m.toNat) :
    directiveSetPolicy d s = answer d .done (policyDetail (s.faults.policy.get kind))
      { s with faults := { s.faults with policy := s.faults.policy.put kind ⟨c, m⟩ } } := by
  obtain ⟨i, hi, hflag⟩ := indexIn_two_flag m
  unfold directiveSetPolicy
  rw [indexIn_some hk, hc, faultClass_ofCode_code, hm, hi, ← hflag]
  rfl

/-! ## ACK_FAULTS (R127, R164) -/

/-- The acknowledged kinds leave the fault word, and the first-fault record loses its validity when none is left. -/
theorem acknowledge_eq (kinds : BitVec 12) (f : FaultCollector) :
    acknowledge kinds f =
      { f with
        word := f.word &&& ~~~kinds
        first := { f.first with valid := if f.word &&& ~~~kinds = 0 then false else f.first.valid } } := by
  unfold acknowledge
  by_cases hempty : f.word &&& ~~~kinds = 0
  · simp only [if_pos hempty]
  · simp only [if_neg hempty]

/-- A kind is left in the word exactly when it was there and its bit of the argument is clear. -/
theorem getLsbD_acknowledged (w : BitVec 12) (x : Word64) {i : Nat} (hi : i < 12) :
    (w &&& ~~~(x.setWidth 12)).getLsbD i = (w.getLsbD i && !x.getLsbD i) := by
  simp [hi]

theorem directiveAck_argument (h : 2 ^ 12 ≤ d.arg1.toNat) : directiveAck d s = answer d .refusedArgument 1 s := if_pos h

theorem directiveAck_done (h : d.arg1.toNat < 2 ^ 12) :
    directiveAck d s = answer d .done (s.faults.word &&& ~~~(d.arg1.setWidth 12)).toNat
      { s with faults := acknowledge (d.arg1.setWidth 12) s.faults } :=
  if_neg (Nat.not_le.mpr h)

/-- Settles O57: each check that fails answers its directive, and one that fails none is DONE with the table written. -/
theorem tableDirectives : Obligations.TableDirectives := by
  intro s n htakes u answered
  refine ⟨codeTable, fun x y hx => ?gangArgument, fun g x y hg => ⟨fun huses => ?gangInUse, fun huses => ?gangDone⟩,
    fun x y => ⟨fun hx => ?laneArgument1, fun hx hy => ?laneArgument2⟩,
    fun l v x y hl hv => ⟨fun t howner => ?laneInUse, fun howner => ?laneDone⟩,
    fun x y z => ⟨fun hx => ?policyArgument1, fun hx hy => ?policyArgument2, fun hx hy hz => ?policyArgument3⟩,
    fun k c m x y z hk hc hm => ?policyDone,
    fun x => ⟨fun hx => ?ackArgument, fun hx => ⟨s.faults.word &&& ~~~(x.setWidth 12), ?ackWord, ?ackDone⟩⟩⟩
  case gangArgument => exact exec_setGang htakes (directiveSetGang_argument hx)
  case gangInUse => exact exec_setGang htakes (directiveSetGang_inUse hg huses)
  case gangDone => exact exec_setGang htakes (directiveSetGang_done hg huses)
  case laneArgument1 => exact exec_configureLane htakes (directiveConfigureLane_argument1 hx)
  case laneArgument2 => exact exec_configureLane htakes (directiveConfigureLane_argument2 hx hy)
  case laneInUse => exact exec_configureLane htakes (directiveConfigureLane_inUse hl hv howner)
  case laneDone => exact exec_configureLane htakes (directiveConfigureLane_done hl hv howner)
  case policyArgument1 => exact exec_setFaultPolicy htakes (directiveSetPolicy_argument1 hx)
  case policyArgument2 => exact exec_setFaultPolicy htakes (directiveSetPolicy_argument2 hx hy)
  case policyArgument3 => exact exec_setFaultPolicy htakes (directiveSetPolicy_argument3 hx hy hz)
  case policyDone => exact exec_setFaultPolicy htakes (directiveSetPolicy_done hk hc hm)
  case ackArgument => exact exec_ackFaults htakes (directiveAck_argument hx)
  case ackWord => exact fun i hi => getLsbD_acknowledged s.faults.word x hi
  case ackDone =>
    have hdone := exec_ackFaults htakes (directiveAck_done hx)
    rw [acknowledge_eq] at hdone
    exact hdone

end Sys2Proof.Machine.TableDirectives
end

section
/-! SUPPORT. ATTENTION, ATTN_ENABLE and the ATTN_N line (R177, R178): the write of the enables, what the two resets leave
of them, and the level of the line. -/

namespace Sys2Proof.Machine.AttentionLine

open Sys2Proof.Machine.Laws Sys2Proof.Machine.Arbiter

variable {s : State}

/-! ## The write of the enables -/

theorem exec_attnEnableWrite (v : Word32) (hhigh : s.control.resetLow = false) :
    exec (.attnEnableWrite v) s = .next
      { s with control := { s.control with enable := v.extractLsb' 0 7, response := some .written } } := by
  have hexec : exec (.attnEnableWrite v) s = execAttnEnableWrite v s := rfl
  rw [hexec, execAttnEnableWrite, hostAccess_high _ _ hhigh, BitVec.setWidth_eq_extractLsb' (by decide)]
  rfl

/-! ## The resets -/

/-- A reset empties the capture queue and every request class, so the port grants nothing at it (R179, R149). -/
theorem resetBlocks_quiet (a : Address) (e : BitVec 7) (s : State) : PortQuiet (resetBlocks a e s) :=
  .inr (nextAccess_idle rfl rfl (nextTrackRequest_none fun _ => Table.get_tab _ _) rfl rfl)

theorem exec_reset (hhigh : s.control.resetLow = false) :
    exec .reset s = .next (respond .written (resetBlocks s.control.anchor s.control.enable s)) := by
  have hexec : exec .reset s = controlWrite resetCommand s := rfl
  rw [hexec, controlWrite_high _ hhigh, resetCommand, servePort_quiet (resetBlocks_quiet _ _ s)]

theorem exec_powerOnReset_low (s : State) :
    exec (.powerOnReset .low) s = .next
      ((resetBlocks 0 0 s).modControl fun k => { k with resetLow := true, response := none }) := rfl

/-! ## The line -/

/-- A word is not 0 exactly when one of its bits is set. -/
theorem ne_zero_iff_getLsbD {w : Nat} (x : BitVec w) : x ≠ 0 ↔ ∃ i < w, x.getLsbD i = true := by
  have hbits : x ≠ 0 ↔ ∃ i, x.getLsbD i = true := by
    simpa using not_congr (BitVec.zero_iff_eq_false (x := x))
  exact hbits.trans (exists_congr fun _ => (and_iff_right_of_imp BitVec.lt_of_getLsbD).symm)

theorem attnPin_low_iff_and :
    attnPin s = false ↔ s.control.resetLow = false ∧ s.control.attention &&& s.control.enable ≠ 0 := by
  rw [attnPin, Bool.or_eq_false_iff, beq_eq_false_iff_ne]

theorem attnPin_low_iff (s : State) :
    attnPin s = false ↔
      s.control.resetLow = false ∧ ∃ i < 7, s.control.attention.getLsbD i = true ∧ s.control.enable.getLsbD i = true := by
  simp only [attnPin_low_iff_and, ne_zero_iff_getLsbD, BitVec.getLsbD_and, Bool.and_eq_true]

/-- Settles O15: the line reads the two words bit by bit, and a cause is recorded without a look at its enable. -/
theorem attnEnableAndLine : Obligations.AttnEnableAndLine := by
  intro s v
  refine ⟨exec_attnEnableWrite v, rfl, fun hhigh => ?reset, ?powerOn, attnPin_low_iff s, fun c => ?cause⟩
  case reset => exact ⟨_, exec_reset hhigh, rfl⟩
  case powerOn => exact ⟨_, exec_powerOnReset_low s, rfl⟩
  case cause => exact ⟨raiseAttention_eq s c, raiseAttention_eq s c ▸ withCause_attends c s⟩

end Sys2Proof.Machine.AttentionLine
end

section
/-! SUPPORT. The machine as a whole: a step runs one command and always answers a next state, the values after reset, and
the six invariants, each checked on the primitive changes a command is made of. -/

namespace Sys2Proof.Machine.Invariants

open Sys2Proof.Machine.Laws

variable {s t : State} {w : Scope}

/-! ## Steps -/

/-- Settles O1: the front command is matched off the queue. -/
theorem stepRunsFrontCommand : Obligations.StepRunsFrontCommand := fun _ _ _ => rfl

theorem hostAccess_next (r : Response) (f : State → State) (s : State) : ∃ t, hostAccess r f s = .next t := by
  cases hlow : s.control.resetLow with
  | false => exact ⟨_, hostAccess_high r f hlow⟩
  | true => exact ⟨_, hostAccess_low r f hlow⟩

theorem controlWrite_next (f : State → State) (s : State) : ∃ t, controlWrite f s = .next t := hostAccess_next _ _ s

/-- Every arm of exec says its next state, an access of the register window through its answer. -/
theorem exec_next (c : Instr) (s : State) : ∃ t, exec c s = .next t := by
  cases c with
  | timeLoRead =>
    show ∃ t, execTimeLoRead s = .next t
    exact hostAccess_next _ _ s
  | run pins => exact controlWrite_next (runCommand pins) s
  | stop => exact controlWrite_next stopCommand s
  | scan => exact controlWrite_next scanCommand s
  | reset => exact controlWrite_next resetCommand s
  | anchorLoWrite v => exact hostAccess_next _ _ s
  | anchorHiWrite v => exact hostAccess_next _ _ s
  | attentionWrite v =>
    show ∃ t, execAttentionWrite v s = .next t
    exact hostAccess_next _ _ s
  | attnEnableWrite v =>
    show ∃ t, execAttnEnableWrite v s = .next t
    exact hostAccess_next _ _ s
  | registerWriteNoEffect r v => exact hostAccess_next _ _ s
  | badRegisterAccess a => exact hostAccess_next _ _ s
  | powerOnReset phase => cases phase <;> exact ⟨_, rfl⟩
  | directiveSlotReadDone r => cases r <;> exact ⟨_, rfl⟩
  | countAdvance pins =>
    by_cases hcount : s.counting = true
    · exact ⟨_, if_pos hcount⟩
    · exact ⟨_, if_neg hcount⟩
  | _ => exact ⟨_, rfl⟩

/-- No primitive change touches the queue of commands. -/
theorem moves_pending (h : Moves w s t) : t.pending = s.pending := by
  induction h with
  | refl => rfl
  | tail _ m ih => cases m <;> exact ih

theorem step_empty (h : s.pending = []) : step s = .next s := by
  rw [step, h]

theorem step_front {c : Instr} {rest : List Instr} (h : s.pending = c :: rest) :
    step s = exec c { s with pending := rest } := by
  rw [step, h]

/-- Settles O2: a next state is answered by every arm, and it is reached by primitive changes alone. -/
theorem everyStepAnswersNext : Obligations.EveryStepAnswersNext := by
  refine ⟨fun c s => ?_, fun s => step_empty⟩
  obtain ⟨t, ht⟩ := exec_next c s
  exact ⟨t, ht, moves_pending (exec_moves c ht)⟩

/-- What every primitive change keeps, a run of them keeps. -/
theorem moves_keep {P : State → Prop} (hmove : ∀ {w : Scope} {s t : State}, Move w s t → P s → P t)
    (h : Moves w s t) (hs : P s) : P t := by
  induction h with
  | refl => exact hs
  | tail _ m ih => exact hmove m ih

/-- What every primitive change keeps, and what does not read the queue of commands, every step keeps. -/
theorem step_keeps {P : State → Prop} (hpending : ∀ (s : State) rest, P s → P { s with pending := rest })
    (hmove : ∀ {w : Scope} {s t : State}, Move w s t → P s → P t) (s t : State) (hs : P s) (h : step s = .next t) :
    P t := by
  cases hqueue : s.pending with
  | nil =>
    rw [step_empty hqueue] at h
    cases h
    exact hs
  | cons c rest =>
    rw [step_front hqueue] at h
    exact moves_keep hmove (exec_moves c h) (hpending s rest hs)

/-! ## The values after reset -/

theorem reset_policy (k : FaultKind) : State.reset.faults.policy.get k.code =
    ⟨match k with
      | .late => .note | .windowStarved => .note | .captureLoss => .note | .busRead => .device | .busWrite => .device
      | .laneCollision => .track | .notOwner => .track | .claimConflict => .track | .probeBusy => .track
      | .awaitTimeout => .track | .badSegment => .track | .badAction => .track, false⟩ := by
  cases k <;> rfl

/-- Settles O3: the tables are read item by item, every other value as it stands. -/
theorem resetValues : Obligations.ResetValues := by
  refine ⟨rfl, rfl, rfl, fun _ => ?tracks, rfl, rfl, rfl, rfl, fun _ => ?lanes, fun _ => ?gangs, fun _ => ?detectors,
    fun _ => ?windows, rfl, fun _ => ?listeners, reset_policy, rfl, rfl, by decide, rfl, rfl, rfl, fun _ => ?slots, rfl,
    by decide, rfl, rfl, fun _ => ?status, rfl, rfl, rfl, rfl, rfl, rfl, rfl, rfl, rfl, rfl⟩
  case tracks => exact Table.get_tab _ _
  case lanes => exact Table.get_tab _ _
  case gangs => exact Table.get_tab _ _
  case detectors => exact congrArg Detector.reference (Table.get_tab _ _)
  case windows => exact Table.get_tab _ _
  case listeners => exact Table.get_tab _ _
  case slots => exact Table.get_tab _ _
  case status => exact Table.get_tab _ _

theorem reset_lane_fit (l : LaneId) : LaneFit (State.reset.lanes.get l) := by
  have hlane : State.reset.lanes.get l = Lane.reset := Table.get_tab _ _
  rw [hlane]
  exact ⟨fun _ => ⟨rfl, rfl⟩, fun howned => absurd rfl howned⟩

theorem reset_frame : FrameInRange State.reset := ⟨by decide, by decide⟩

/-- Right after reset the word is empty and the record not valid. -/
theorem reset_firstFault : FirstFaultInv State.reset :=
  ⟨fun hvalid => absurd hvalid Bool.false_ne_true, fun hword => absurd rfl hword⟩

/-- Settles O4: the lists of the reset state are empty and its words 0. -/
theorem resetMeetsInvariants : Obligations.ResetMeetsInvariants := by
  refine ⟨⟨?aligned, reset_frame, fun hrun => absurd rfl hrun, fun hlow => ?line⟩, reset_lane_fit,
    reset_firstFault, Nat.zero_le _, List.Pairwise.nil, List.Pairwise.nil⟩
  case aligned => rfl
  case line => cases hlow

/-! ## ANCHOR, F, the device state and the RESET_N line -/

theorem move_controlInv (m : Move w s t) (h : ControlInv s) : ControlInv t := by
  obtain ⟨haligned, hframe, hanchor, hline⟩ := h
  cases m with
  | halt _ hrun =>
    refine ⟨haligned, hframe, fun _ => hanchor (by simp [hrun]), fun hlow => ?_⟩
    have hstopped := hline hlow
    rw [hrun] at hstopped
    cases hstopped
  | frame _ n hn => exact ⟨haligned, hn, hanchor, hline⟩
  | device _ d hd =>
    refine ⟨haligned, hframe, fun hgo => ?_, fun hlow => ?_⟩
    · rcases hd with rfl | hgoing | ⟨ha, -⟩
      · exact absurd rfl hgo
      · exact hanchor hgoing
      · exact ha
    · rcases hd with rfl | hgoing | ⟨-, hhigh⟩
      · rfl
      · exact absurd (hline hlow) hgoing
      · exact absurd (hhigh.symm.trans hlow) Bool.false_ne_true
  | anchor _ a hstopped ha => exact ⟨ha haligned, hframe, fun hgo => absurd hstopped hgo, hline⟩
  | resetLine _ b hb => exact ⟨haligned, hframe, hanchor, hb⟩
  | reset _ a e ha =>
    refine ⟨?_, reset_frame, fun hgo => absurd rfl hgo, fun _ => rfl⟩
    rcases ha with rfl | rfl
    · exact haligned
    · rfl
  | _ => exact ⟨haligned, hframe, hanchor, hline⟩

/-- Settles O5: only the device state, ANCHOR, F and the RESET_N line bear on it, and each changes under its condition. -/
theorem stepKeepsControlInv : Obligations.StepKeepsControlInv :=
  step_keeps (fun _ _ h => h) move_controlInv

/-! ## The lanes -/

theorem move_lanesInv (m : Move w s t) (h : LanesInv s) : LanesInv t := by
  cases m with
  | lanes _ v hfit => exact fun l => hfit l (h l)
  | reset => exact reset_lane_fit
  | _ => exact h

/-- Settles O6: a change of the lane records keeps R67 on each lane it holds of. -/
theorem stepKeepsLanesInv : Obligations.StepKeepsLanesInv := step_keeps (fun _ _ h => h) move_lanesInv

/-! ## The first-fault record -/

theorem faultKind_bit_ne_zero (k : FaultKind) : k.bit ≠ 0 := by cases k <;> decide

theorem or_bit_ne_zero (word : BitVec 12) (k : FaultKind) : word ||| k.bit ≠ 0 := fun hzero =>
  faultKind_bit_ne_zero k (BitVec.or_eq_zero_iff.mp hzero).2

/-- A fault latches the record where the word was empty, and leaves a valid one where it was not. -/
theorem recordFault_firstFaultInv (k : FaultKind) (cls : FaultClass) (c : FaultContext) (h : FirstFaultInv s) :
    FirstFaultInv (recordFault k cls c s) := by
  refine ⟨fun _ => or_bit_ne_zero _ k, fun _ => ?_⟩
  show (if s.faults.word = 0 then _ else s.faults.first).valid = true
  split
  · rfl
  · next hword => exact h.mpr hword

theorem acknowledge_firstFaultInv (kinds : BitVec 12) (h : FirstFaultInv s) :
    FirstFaultInv { s with faults := acknowledge kinds s.faults } := by
  unfold FirstFaultInv
  rw [TableDirectives.acknowledge_eq]
  by_cases hempty : s.faults.word &&& ~~~kinds = 0
  · simp [hempty]
  · have hword : s.faults.word ≠ 0 := fun hzero => hempty (by rw [hzero]; exact BitVec.zero_and)
    simp only [if_neg hempty]
    exact iff_of_true (h.mpr hword) hempty

theorem move_firstFaultInv (m : Move w s t) (h : FirstFaultInv s) : FirstFaultInv t := by
  cases m with
  | record _ k cls c => exact recordFault_firstFaultInv k cls c h
  | acknowledge _ kinds => exact acknowledge_firstFaultInv kinds h
  | reset => exact reset_firstFault
  | _ => exact h

/-- Settles O7: the word and the record change together, at a fault and at an acknowledgement. -/
theorem stepKeepsFirstFaultInv : Obligations.StepKeepsFirstFaultInv := step_keeps (fun _ _ h => h) move_firstFaultInv

/-! ## The capture queue -/

theorem move_captureInv (m : Move w s t) (h : CaptureInv s) : CaptureInv t := by
  cases m with
  | capture _ r hroom =>
    show (s.probes.captures ++ [r]).length ≤ 32
    rw [List.length_append, List.length_singleton]
    exact hroom
  | captured => exact ((List.tail_sublist _).length_le).trans h
  | reset => exact Nat.zero_le _
  | _ => exact h

/-- Settles O8: an edge is admitted only where the queue has room. -/
theorem stepKeepsCaptureInv : Obligations.StepKeepsCaptureInv := step_keeps (fun _ _ h => h) move_captureInv

/-! ## The Due Queue -/

/-- An entry that meets no same-time driving entry keeps the queue free of collisions (R51). -/
theorem enqueue_queueInv {e : Entry} (hfree : e.action.isDriving = true → collisionSet s.queue.entries e.due e.lanes = 0)
    (h : QueueInv s) : (insertEntry e s.queue.entries).Pairwise EntryBefore :=
  insertEntry_pairwise e _ h fun x hx hdriving hxdriving hdue =>
    (collisionSet_eq_zero _ _ _).mp (hfree hdriving) x hx hxdriving hdue

theorem move_queueInv (m : Move w s t) (h : QueueInv s) : QueueInv t := by
  cases m with
  | dropEntries _ p => exact List.Pairwise.filter p h
  | takeEntry => exact List.Pairwise.tail h
  | enqueue _ _ e n _ hfree => exact enqueue_queueInv hfree h
  | reset => exact List.Pairwise.nil
  | _ => exact h

/-- Settles O9: entries leave the queue in any way, and enter it in their place without a collision. -/
theorem stepKeepsQueueInv : Obligations.StepKeepsQueueInv := step_keeps (fun _ _ h => h) move_queueInv

/-! ## The memory image -/

theorem move_memoryInv (m : Move w s t) (h : MemoryInv s) : MemoryInv t := by
  cases m with
  | store _ a bs => exact store_wf _ a bs h
  | _ => exact h

/-- Settles O10: the image changes only where a record is stored. -/
theorem stepKeepsMemoryInv : Obligations.StepKeepsMemoryInv := step_keeps (fun _ _ h => h) move_memoryInv

end Sys2Proof.Machine.Invariants
end

section
/-! SUPPORT. The register window (spec 09): what an access is answered with, the value CONTROL reads as, the writes of
ANCHOR, and the two resets. -/

namespace Sys2Proof.Machine.RegisterWindow

open Sys2Proof.Machine.Laws Sys2Proof.Machine.Timebase Sys2Proof.Machine.AttentionLine

variable {s : State} {r : Response} {c : Instr} {f : State → State}

/-! ## The answer to an access (R168) -/

theorem bad_iff (a : RegisterAccess) : a.bad = true ↔ a.width ≠ 4 ∨ a.offset.toNat % 4 ≠ 0 := by
  simp [RegisterAccess.bad]

/-- What a command that is an access is answered with: an error while RESET_N is low, else `r`. -/
def AnsweredAs (r : Response) (c : Instr) (s : State) : Prop :=
  ∃ t, exec c s = .next t ∧ t.control.response = some (if s.control.resetLow = true then .error else r)

theorem answeredAs_of_hostAccess (h : exec c s = hostAccess r f s) : AnsweredAs r c s := by
  cases hlow : s.control.resetLow with
  | false => exact ⟨_, h.trans (hostAccess_high r f hlow), by simp [hlow]⟩
  | true => exact ⟨_, h.trans (hostAccess_low r f hlow), by simp [hlow]⟩

theorem exec_timeLoRead_eq (s : State) :
    exec .timeLoRead s = hostAccess (.data (readTimeLo s))
      (fun s => { s with timebase := { s.timebase with timeHi := s.timebase.count.extractLsb' 32 32 } }) s := rfl

theorem exec_attentionWrite_eq (v : Word32) (s : State) :
    exec (.attentionWrite v) s = hostAccess .written
      (fun s => s.modControl fun k => { k with attention := k.attention &&& ~~~(v.setWidth 7) }) s := rfl

theorem exec_attnEnableWrite_eq (v : Word32) (s : State) :
    exec (.attnEnableWrite v) s = hostAccess .written
      (fun s => s.modControl fun k => { k with enable := v.setWidth 7 }) s := rfl

/-- Every command that a write of CONTROL is, is answered as a completed write (R172). -/
theorem controlWrite_answered (v : Word32) (pins : Word16) (s : State) :
    AnsweredAs .written (decodeControlWrite v pins) s := by
  unfold decodeControlWrite
  split
  · exact answeredAs_of_hostAccess (f := fun s => servePort (runCommand pins s)) rfl
  · exact answeredAs_of_hostAccess (f := fun s => servePort (stopCommand s)) rfl
  · exact answeredAs_of_hostAccess (f := fun s => servePort (scanCommand s)) rfl
  · exact answeredAs_of_hostAccess (f := fun s => servePort (resetCommand s)) rfl
  · exact answeredAs_of_hostAccess (f := id) rfl

/-- Every command that a write of a register is, is answered as a completed write (R168). -/
theorem registerWrite_answered {word : Nat} {v : Word32} {pins : Word16}
    (h : decodeRegisterWrite word v pins = some c) : AnsweredAs .written c s := by
  unfold decodeRegisterWrite at h
  split at h <;> cases h
  · exact answeredAs_of_hostAccess (f := id) rfl
  · exact answeredAs_of_hostAccess rfl
  · exact answeredAs_of_hostAccess rfl
  · exact controlWrite_answered v pins s
  · exact answeredAs_of_hostAccess (exec_attentionWrite_eq v s)
  · exact answeredAs_of_hostAccess (exec_attnEnableWrite_eq v s)
  · exact answeredAs_of_hostAccess (f := id) rfl
  · exact answeredAs_of_hostAccess (f := id) rfl

theorem decodeRegisterWrite_isSome {word : Nat} (h : word < 8) (v : Word32) (pins : Word16) :
    decodeRegisterWrite word v pins ≠ none := by
  interval_cases word <;> simp [decodeRegisterWrite]

theorem answerAccess_error {a : RegisterAccess} (h : a.bad = true ∨ s.control.resetLow = true) :
    answerAccess a s = .error := if_pos h

theorem answerAccess_write {a : RegisterAccess} (hgood : a.bad = false) (hhigh : s.control.resetLow = false)
    (hw : a.write = true) : answerAccess a s = .written := by
  simp [answerAccess, hgood, hhigh, hw]

theorem answerAccess_read {a : RegisterAccess} (hgood : a.bad = false) (hhigh : s.control.resetLow = false)
    (hr : a.write = false) : answerAccess a s = .data (readRegister s (wordOffset a)) := by
  simp [answerAccess, hgood, hhigh, hr]

theorem wordOffset_eq {a : RegisterAccess} {n : Fin 8} (h : a.offset.toNat = 4 * n.val) : wordOffset a = n :=
  Fin.ext (by simp only [wordOffset]; omega)

/-- The answer that an access's command gives is the answer of the bus target. -/
theorem answeredAs_answer {a : RegisterAccess} {r : Response} (h : AnsweredAs r c s)
    (hr : answerAccess a s = if s.control.resetLow = true then .error else r) :
    ∃ t, exec c s = .next t ∧ t.control.response = some (answerAccess a s) := by
  rw [hr]
  exact h

theorem decodeAccess_answered {a : RegisterAccess} {v : Word32} {pins : Word16} (h : decodeAccess a v pins = some c) :
    ∃ t, exec c s = .next t ∧ t.control.response = some (answerAccess a s) := by
  unfold decodeAccess at h
  split at h
  · next hbad =>
    cases h
    refine answeredAs_answer (answeredAs_of_hostAccess (r := .error) (f := id) rfl) ?_
    rw [answerAccess_error (.inl hbad), ite_self]
  · next hgood =>
    have hgood : a.bad = false := Bool.eq_false_of_not_eq_true hgood
    split at h
    · next hw =>
      refine answeredAs_answer (registerWrite_answered h) ?_
      cases hlow : s.control.resetLow with
      | true => exact answerAccess_error (.inr hlow)
      | false => exact answerAccess_write hgood hlow hw
    · next hr =>
      split at h <;> cases h
      next hword =>
      refine answeredAs_answer (answeredAs_of_hostAccess (exec_timeLoRead_eq s)) ?_
      cases hlow : s.control.resetLow with
      | true => exact answerAccess_error (.inr hlow)
      | false =>
        have hoffset : wordOffset a = 6 := Fin.ext hword
        rw [answerAccess_read hgood hlow (Bool.eq_false_of_not_eq_true hr), hoffset]
        rfl

/-- An access that is no command is a read, and not that of TIME_LO (log 15). -/
theorem decodeAccess_none {a : RegisterAccess} {v : Word32} {pins : Word16} (h : decodeAccess a v pins = none) :
    a.bad = false ∧ a.write = false ∧ a.offset.toNat ≠ 0x18 := by
  unfold decodeAccess at h
  split at h
  · cases h
  · next hgood =>
    split at h
    · exact absurd h (decodeRegisterWrite_isSome (by omega) v pins)
    · next hr =>
      split at h
      · cases h
      · next hword =>
        exact ⟨Bool.eq_false_of_not_eq_true hgood, Bool.eq_false_of_not_eq_true hr, by omega⟩

/-! ## The registers other than CONTROL -/

theorem exec_attentionWrite (v : Word32) (hhigh : s.control.resetLow = false) :
    exec (.attentionWrite v) s = .next
      { s with control := { s.control with
          attention := s.control.attention &&& ~~~(v.setWidth 7), response := some .written } } := by
  rw [exec_attentionWrite_eq, hostAccess_high _ _ hhigh]
  rfl

/-- A cause stays exactly when it was set and is not written 1 (R177). -/
theorem getLsbD_cleared (a : BitVec 7) (v : Word32) {i : Nat} (hi : i < 7) :
    (a &&& ~~~(v.setWidth 7)).getLsbD i = (a.getLsbD i && !v.getLsbD i) := by
  simp [hi]

theorem readAnchorLo_eq (s : State) : readAnchorLo s = s.control.anchor.extractLsb' 0 32 :=
  BitVec.setWidth_eq_extractLsb' (by decide)

/-- Settles O11: each access is decoded to its command, and every command of the window is answered by `hostAccess`. -/
theorem registerWindow : Obligations.RegisterWindow := by
  refine ⟨bad_iff, fun s => ⟨rfl, readAnchorLo_eq s, rfl, rfl, rfl, readTimeLo_eq s, rfl⟩,
    fun s hhigh => ⟨fun v => ⟨_, exec_attentionWrite v hhigh, fun i hi => getLsbD_cleared _ v hi⟩,
      fun r v => exec_registerWriteNoEffect r v hhigh, fun a _ => hostAccess_high _ _ hhigh⟩,
    fun a s => ⟨answerAccess_error, fun hgood hhigh => ⟨answerAccess_write hgood hhigh, fun hr n hn => ?read⟩,
      fun v pins => ⟨fun c hc => decodeAccess_answered hc, decodeAccess_none⟩⟩⟩
  case read => rw [answerAccess_read hgood hhigh hr, wordOffset_eq hn]

/-! ## CONTROL (R171, spec 10.6) -/

/-- The word of the five items, as CONTROL lays them out. -/
def controlWord (d : DeviceState) (active waiting refused valid : Bool) : Word32 :=
  BitVec.ofNat 32 (256 * d.code + 4096 * active.toNat + 8192 * waiting.toNat + 16384 * refused.toNat +
    32768 * valid.toNat)

theorem readControl_eq (s : State) :
    readRegister s 3 = controlWord s.control.device s.scanner.scan.isSome s.scanner.pending s.control.runRefused
      (!(s.control.anchor == 0)) := rfl

theorem controlWord_device (d : DeviceState) (active waiting refused valid : Bool) :
    (controlWord d active waiting refused valid).extractLsb' 8 2 =
      (match d with
        | .stopped => 0#2
        | .running => 1#2
        | .halted => 2#2) := by
  cases d <;> revert active waiting refused valid <;> decide

theorem controlWord_flags (d : DeviceState) (active waiting refused valid : Bool) :
    (controlWord d active waiting refused valid).getLsbD 12 = active ∧
      (controlWord d active waiting refused valid).getLsbD 13 = waiting ∧
      (controlWord d active waiting refused valid).getLsbD 14 = refused ∧
      (controlWord d active waiting refused valid).getLsbD 15 = valid := by
  cases d <;> revert active waiting refused valid <;> decide

theorem controlWord_zero (d : DeviceState) (active waiting refused valid : Bool) :
    (controlWord d active waiting refused valid).extractLsb' 0 8 = 0 ∧
      (controlWord d active waiting refused valid).extractLsb' 10 2 = 0 ∧
      (controlWord d active waiting refused valid).extractLsb' 16 16 = 0 := by
  cases d <;> revert active waiting refused valid <;> decide

/-- Settles O12: the word is the sum of the items at their places, which do not overlap. -/
theorem controlReadShowsFiveItems : Obligations.ControlReadShowsFiveItems := by
  intro s
  rw [readControl_eq]
  obtain ⟨hactive, hwaiting, hrefused, hvalid⟩ := controlWord_flags s.control.device s.scanner.scan.isSome
    s.scanner.pending s.control.runRefused (!(s.control.anchor == 0))
  obtain ⟨hlow, hmiddle, htop⟩ := controlWord_zero s.control.device s.scanner.scan.isSome
    s.scanner.pending s.control.runRefused (!(s.control.anchor == 0))
  refine ⟨controlWord_device _ _ _ _ _, hactive, hwaiting, hrefused, hvalid.trans ?valid, hlow, hmiddle, htop,
    fun _ _ => rfl⟩
  case valid => rw [decide_not]; rfl

/-! ## ANCHOR (R170) -/

theorem exec_anchorLoWrite (v : Word32) (hhigh : s.control.resetLow = false) :
    exec (.anchorLoWrite v) s = .next (respond .written
      (if s.control.device = .stopped then
        s.modControl fun k =>
          { k with anchor := (k.anchor.extractLsb' 32 32 ++ v.extractLsb' 11 21 ++ 0#11 : BitVec 64) }
      else s)) :=
  hostAccess_high _ _ hhigh

theorem exec_anchorHiWrite (v : Word32) (hhigh : s.control.resetLow = false) :
    exec (.anchorHiWrite v) s = .next (respond .written
      (if s.control.device = .stopped then
        s.modControl fun k => { k with anchor := (v ++ k.anchor.extractLsb' 0 32 : BitVec 64) }
      else s)) :=
  hostAccess_high _ _ hhigh

/-- Settles O14: the writes look at the device state, and the resets give ANCHOR outright. -/
theorem anchorWrites : Obligations.AnchorWrites := by
  refine fun s v => ⟨fun hhigh hstopped => ⟨?lo, ?hi⟩, fun hhigh hgoing => ⟨?loIgnored, ?hiIgnored⟩,
    fun hhigh => ⟨_, exec_reset hhigh, rfl⟩, _, exec_powerOnReset_low s, rfl⟩
  case lo =>
    rw [exec_anchorLoWrite v hhigh, if_pos hstopped]
    rfl
  case hi =>
    rw [exec_anchorHiWrite v hhigh, if_pos hstopped]
    rfl
  case loIgnored =>
    rw [exec_anchorLoWrite v hhigh, if_neg hgoing]
    rfl
  case hiIgnored =>
    rw [exec_anchorHiWrite v hhigh, if_neg hgoing]
    rfl

/-! ## RESET and RESET_N (R179, R180) -/

/-- Settles O20: a RESET grants nothing, and RESET_N is high where it is taken. -/
theorem deviceReset : Obligations.DeviceReset := by
  intro s hhigh
  rw [exec_reset hhigh, resetBlocks, hhigh]
  rfl

theorem counting_low (hlow : s.control.resetLow = true) : s.counting = false := by
  simp [State.counting, hlow]

/-- While RESET_N is low every access is answered with an error and has no effect (R168, R180). -/
theorem exec_access_low (hc : IsAccess c = true) (hlow : s.control.resetLow = true) :
    exec c s = .next { s with control := { s.control with response := some .error } } := by
  cases c with
  | timeLoRead => exact (exec_timeLoRead_eq s).trans (hostAccess_low _ _ hlow)
  | run pins => exact hostAccess_low .written (fun s => servePort (runCommand pins s)) hlow
  | stop => exact hostAccess_low .written (fun s => servePort (stopCommand s)) hlow
  | scan => exact hostAccess_low .written (fun s => servePort (scanCommand s)) hlow
  | reset => exact hostAccess_low .written (fun s => servePort (resetCommand s)) hlow
  | anchorLoWrite v => exact hostAccess_low _ _ hlow
  | anchorHiWrite v => exact hostAccess_low _ _ hlow
  | attentionWrite v => exact (exec_attentionWrite_eq v s).trans (hostAccess_low _ _ hlow)
  | attnEnableWrite v => exact (exec_attnEnableWrite_eq v s).trans (hostAccess_low _ _ hlow)
  | registerWriteNoEffect r v => exact hostAccess_low _ _ hlow
  | badRegisterAccess a => exact hostAccess_low _ _ hlow
  | _ => cases hc

/-- While RESET_N is low the count stands still, and no event comes of it (R12). -/
theorem exec_tick_low (hc : IsTickEvent c = true) (hlow : s.control.resetLow = true) : exec c s = .next s := by
  have hstill := counting_low hlow
  cases c with
  | countAdvance pins => exact if_neg (by simp [hstill])
  | frameBoundary => exact congrArg _ (tickEvent_still boundaryEvent hstill)
  | probeEdge p o => exact congrArg _ (tickEvent_still (handEdge p o) hstill)
  | dispatchEvent => exact congrArg _ (tickEvent_still Machine.dispatchEvent hstill)
  | returnEdgeExpiry l => exact congrArg _ (tickEvent_still (returnEdgeEvent l) hstill)
  | deadlineExpiry p => exact congrArg _ (tickEvent_still (deadlineEvent p) hstill)
  | timeoutExpiry p => exact congrArg _ (tickEvent_still (timeoutEvent p) hstill)
  | _ => cases hc

/-- Settles O21: the two phases by their definition, and each block's answer while the line is low. -/
theorem powerOnReset : Obligations.PowerOnReset := by
  refine ⟨fun _ => rfl, fun _ => rfl, fun s hlow => ⟨fun c hc => exec_access_low hc hlow,
    fun c hc => exec_tick_low hc hlow, fun a => answerAccess_error (.inr hlow), servePort_low hlow,
    fun l => ⟨if_pos hlow, if_pos hlow⟩, ?line⟩⟩
  case line => rw [attnPin, hlow, Bool.true_or]

end Sys2Proof.Machine.RegisterWindow
end

section
/-! SUPPORT. The memory image and the records in it (spec 10), the writes of class 5, the grants of the port, and the
completions of accesses that have lost their requester. -/

namespace Sys2Proof.Machine.PortRecords

open Sys2Proof.Machine.Laws Sys2Proof.Machine.Timebase

/-! ## A record stored (R130) -/

theorem store_single (m : Memory) (a : Address) (b : Byte) : Memory.store m a [b] = m.put a.toNat b := rfl

/-- A record stored reads back byte by byte, and every other byte as before. -/
theorem read_store (m : Memory) (a : Address) (bs : List Byte) (hfits : a.toNat + bs.length ≤ 2 ^ 64) (i : Nat) :
    (Memory.store m a bs).read i =
      if a.toNat ≤ i ∧ i < a.toNat + bs.length then bs[i - a.toNat]? else m.read i := by
  induction bs generalizing m a with
  | nil => rw [if_neg (by simp)]; rfl
  | cons b bs ih =>
    rw [List.length_cons] at hfits ⊢
    by_cases hlast : bs = []
    · subst hlast
      rw [store_single, read_put]
      by_cases hi : i = a.toNat
      · simp [hi]
      · rw [if_neg hi, if_neg (by simp only [List.length_nil]; omega)]
    · have hlen : 0 < bs.length := List.length_pos_iff.mpr hlast
      have hnext : (add64 a 1).toNat = a.toNat + 1 := add64_one (by omega)
      have hstore : Memory.store m a (b :: bs) = Memory.store (m.put a.toNat b) (add64 a 1) bs := rfl
      rw [hstore, ih _ _ (by omega), hnext, read_put]
      by_cases hi : i = a.toNat
      · subst hi
        rw [if_neg (by omega), if_pos rfl, if_pos (by omega), Nat.sub_self, List.getElem?_cons_zero]
      · rw [if_neg hi]
        by_cases hin : a.toNat + 1 ≤ i ∧ i < a.toNat + 1 + bs.length
        · have hsucc : i - a.toNat = i - (a.toNat + 1) + 1 := by omega
          rw [if_pos hin, if_pos (by omega), hsucc, List.getElem?_cons_succ]
        · rw [if_neg hin, if_neg (by omega)]

/-! ## The layouts of the records (spec 10.3 to 10.5) -/

/-- A byte of one flag, of two and of three. -/
theorem flagByte_one (a : Bool) : flagByte [a] = leBytes 1 a.toNat := rfl

theorem flagByte_two (a b : Bool) : flagByte [a, b] = leBytes 1 (a.toNat + 2 * b.toNat) := rfl

theorem flagByte_three (a b c : Bool) : flagByte [a, b, c] = leBytes 1 (a.toNat + 2 * b.toNat + 4 * c.toNat) := by
  cases a <;> cases b <;> cases c <;> rfl

theorem heldByte : ([0x01#8] : List Byte) = leBytes 1 1 := rfl

theorem retireRecord_layout (r : RetireRecord) : HasLayout r.bytes 32
    [(0x00, 1, r.outcome.code), (0x01, 3, 0), (0x04, 4, r.passes.toNat), (0x08, 4, r.dispatched.toNat),
     (0x0C, 4, r.dropped.toNat), (0x10, 8, r.time.toNat), (0x18, 8, 0)] := by
  simp only [RetireRecord.bytes, reservedBytes_eq, leBytes_eq_fieldBytes, fieldBytes_append]
  exact hasLayout_fieldBytes (by simp) (by simp only [placedFrom, List.cons_append, List.nil_append, Nat.reduceAdd])

theorem captureRecord_layout (r : CaptureRecord) : HasLayout r.bytes 16
    [(0x00, 8, r.time.toNat), (0x08, 2, r.index), (0x0A, 1, r.polarity.code), (0x0B, 1, r.probe.val),
     (0x0C, 4, 0)] := by
  simp only [CaptureRecord.bytes, reservedBytes_eq, leBytes_eq_fieldBytes, fieldBytes_append]
  exact hasLayout_fieldBytes (by simp) (by simp only [placedFrom, List.cons_append, List.nil_append, Nat.reduceAdd])

theorem bucketHeader_layout (h : BucketHeader) : HasLayout h.bytes 64
    [(0x00, 1, h.cause.code), (0x01, 1, h.probe.val), (0x02, 1, h.edge.code), (0x03, 1, 0), (0x04, 2, h.count),
     (0x06, 2, 0), (0x08, 4, h.suppressed.toNat), (0x0C, 4, h.lost.toNat), (0x10, 8, wordOr0 h.firstTime),
     (0x18, 8, wordOr0 h.lastTime), (0x20, 8, h.openTime.toNat), (0x28, 8, h.closeTime.toNat), (0x30, 16, 0)] := by
  simp only [BucketHeader.bytes, reservedBytes_eq, wordOrZero_eq, leBytes_eq_fieldBytes, fieldBytes_append]
  exact hasLayout_fieldBytes (by simp) (by simp only [placedFrom, List.cons_append, List.nil_append, Nat.reduceAdd])

theorem incident_layout (i : Incident) : HasLayout i.bytes 32
    [(0x00, 1, 1), (0x01, 1, i.kind.code.val), (0x02, 1, i.cls.code), (0x03, 1, indexOrFF i.context.track),
     (0x04, 4, i.sequence.toNat), (0x08, 1, indexOrFF i.context.probe), (0x09, 1, i.context.index.getD 0xFF),
     (0x0A, 2, i.context.lanes.toNat), (0x0C, 4, i.context.pass.toNat), (0x10, 8, i.context.segment.toNat),
     (0x18, 8, i.context.time.toNat)] := by
  simp only [Incident.bytes, heldByte, indexByte_eq, actionByte_eq, leBytes_eq_fieldBytes, fieldBytes_append]
  exact hasLayout_fieldBytes (by simp) (by simp only [placedFrom, List.cons_append, List.nil_append, Nat.reduceAdd])

theorem directiveResult_layout (r : DirectiveResult) : HasLayout r.bytes 16
    [(0x00, 2, r.sequence.toNat), (0x02, 1, r.outcome.code), (0x03, 1, 0), (0x04, 4, r.detail.toNat),
     (0x08, 8, r.time.toNat)] := by
  simp only [DirectiveResult.bytes, reservedBytes_eq, leBytes_eq_fieldBytes, fieldBytes_append]
  exact hasLayout_fieldBytes (by simp) (by simp only [placedFrom, List.cons_append, List.nil_append, Nat.reduceAdd])

theorem summary_layout (g : Word32) (n : Instant) (i : SummaryImage) : HasLayout (summaryBytes g n i) 128
    [(0x00, 4, g.toNat), (0x04, 1, i.device.code), (0x05, 1, i.first.valid.toNat), (0x06, 2, 0), (0x08, 8, n.toNat),
     (0x10, 2, i.word.toNat), (0x12, 2, 0), (0x14, 4, i.masked.toNat), (0x18, 8, i.sequence.toNat),
     (0x20, 8, i.lost.toNat), (0x28, 4, i.skippedScans.toNat), (0x2C, 4, i.markTag.toNat), (0x30, 8, i.markTime.toNat),
     (0x38, 8, i.first.sequence.toNat), (0x40, 1, i.first.kind.code.val), (0x41, 1, i.first.cls.code),
     (0x42, 1, indexOrFF i.first.context.track), (0x43, 1, indexOrFF i.first.context.probe),
     (0x44, 2, i.first.context.lanes.toNat), (0x46, 1, i.first.context.index.getD 0xFF), (0x47, 1, 0),
     (0x48, 4, i.first.context.pass.toNat), (0x4C, 4, 0), (0x50, 8, i.first.context.segment.toNat),
     (0x58, 8, i.first.context.time.toNat), (0x60, 32, 0)] := by
  simp only [summaryBytes, FirstFault.bytes, flagByte_one, reservedBytes_eq, indexByte_eq, actionByte_eq,
    leBytes_eq_fieldBytes, fieldBytes_append]
  exact hasLayout_fieldBytes (by simp) (by simp only [placedFrom, List.cons_append, List.nil_append, Nat.reduceAdd])

theorem status_layout (i : StatusImage) : HasLayout i.bytes 64
    [(0x00, 1, i.state.code), (0x01, 1, indexOrFF (i.haltKind.map FaultKind.code)), (0x02, 1, i.quota),
     (0x03, 1, i.retireNotifyAll.toNat + 2 * i.keepTotals.toNat), (0x04, 1, i.queued), (0x05, 1, i.openSegments),
     (0x06, 1, i.stallQuota.toNat + 2 * i.stallSegments.toNat + 4 * i.stallPort.toNat),
     (0x07, 1, i.rejectedLink.isSome.toNat + 2 * i.pendingLink.isSome.toNat), (0x08, 1, i.cursor), (0x09, 3, 0),
     (0x0C, 4, i.pass.toNat), (0x10, 8, i.segment.toNat), (0x18, 8, i.anchor.toNat), (0x20, 8, wordOr0 i.rejectedLink),
     (0x28, 8, wordOr0 i.pendingLink), (0x30, 4, i.dispatchedTotal.toNat), (0x34, 4, i.droppedTotal.toNat),
     (0x38, 8, 0)] := by
  simp only [StatusImage.bytes, flagByte_two, flagByte_three, reservedBytes_eq, indexByte_eq, wordOrZero_eq,
    leBytes_eq_fieldBytes, fieldBytes_append]
  exact hasLayout_fieldBytes (by simp) (by simp only [placedFrom, List.cons_append, List.nil_append, Nat.reduceAdd])

/-- Settles O23: a record is stored byte after byte, and each kind of record is its fields written one after another. -/
theorem storeWritesRecord : Obligations.StoreWritesRecord := by
  refine ⟨fun m a bs hfits => ⟨fun i hlo hhi => ?inside, fun i hout => ?outside, store_wf m a bs⟩,
    TableDirectives.codeTable, retireRecord_layout, captureRecord_layout, bucketHeader_layout, incident_layout,
    directiveResult_layout, summary_layout, status_layout⟩
  case inside => rw [read_store m a bs hfits, if_pos ⟨hlo, hhi⟩]
  case outside => rw [read_store m a bs hfits, if_neg (by omega)]

/-! ## The writes of class 5 (R140 to R144) -/

variable {s : State}

theorem refreshSummary_eq (now : Instant) (i : SummaryImage) (w : OutWrite) :
    w.refreshSummary now i = match w with
      | .summary g _ _ => .summary g now i
      | w => w := by
  cases w <;> rfl

theorem refreshStatus_eq (t : TrackId) (i : StatusImage) (w : OutWrite) :
    w.refreshStatus t i = if w.isStatusOf t then .status t i else w := by
  cases w <;> simp [OutWrite.refreshStatus, OutWrite.isStatusOf]

theorem formSummary_new (h : ∀ w ∈ s.port.out, w.isSummary = false) :
    formSummary s =
      { s with port := { s.port with
          out := s.port.out ++ [.summary (s.port.generation + 1) s.timebase.count (summaryImage s)]
          generation := s.port.generation + 1
          lastSummary := some (summaryImage s) } } := by
  have hnone : ¬ s.port.out.any OutWrite.isSummary = true := by simpa using h
  unfold formSummary State.modPort
  simp only [if_neg hnone]
  rfl

theorem formSummary_waiting (h : ∃ w ∈ s.port.out, w.isSummary = true) :
    formSummary s =
      { s with port := { s.port with
          out := s.port.out.map (OutWrite.refreshSummary s.timebase.count (summaryImage s))
          lastSummary := some (summaryImage s) } } := by
  have hsome : s.port.out.any OutWrite.isSummary = true := List.any_eq_true.mpr h
  unfold formSummary State.modPort
  simp only [if_pos hsome]
  rfl

theorem formStatus_new {t : TrackId} (h : ∀ w ∈ s.port.out, w.isStatusOf t = false) :
    formStatus t s =
      { s with port := { s.port with
          out := s.port.out ++ [.status t (statusImage (s.tracks.get t))]
          lastStatus := s.port.lastStatus.put t (some (statusImage (s.tracks.get t))) } } := by
  have hnone : ¬ s.port.out.any (OutWrite.isStatusOf t) = true := by simpa using h
  unfold formStatus State.modPort
  simp only [if_neg hnone]

theorem formStatus_waiting {t : TrackId} (h : ∃ w ∈ s.port.out, w.isStatusOf t = true) :
    formStatus t s =
      { s with port := { s.port with
          out := s.port.out.map (OutWrite.refreshStatus t (statusImage (s.tracks.get t)))
          lastStatus := s.port.lastStatus.put t (some (statusImage (s.tracks.get t))) } } := by
  have hsome : s.port.out.any (OutWrite.isStatusOf t) = true := List.any_eq_true.mpr h
  unfold formStatus State.modPort
  simp only [if_pos hsome]

/-- Settles O26: a write of its kind that waits is refreshed where it stands, else one joins the end. -/
theorem outWritesFormed : Obligations.OutWritesFormed := by
  refine ⟨fun _ => rfl, fun _ => rfl, fun s t => ⟨formSummary_new, fun h => ?summary, formStatus_new, fun h => ?status⟩⟩
  case summary =>
    rw [formSummary_waiting h, funext (refreshSummary_eq s.timebase.count (summaryImage s))] <;> rfl
  case status =>
    rw [formStatus_waiting h, funext (refreshStatus_eq t (statusImage (s.tracks.get t)))]

/-! ## Grants (R129 to R131) -/

theorem inArea_iff (x : PortAccess) : x.inArea = true ↔
    (∃ w, x = .incident w) ∨ x = .scan .directiveSlot ∨ (∃ t q, x = .scan (.descriptor t q)) ∨
      (∃ n, x = .scan (.heldFlag n)) ∨ ∃ w, x = .out w := by
  cases x with
  | scan r => cases r <;> simp [PortAccess.inArea]
  | _ => simp [PortAccess.inArea]

/-- A START_TRACK whose descriptor read fails while no drain is in progress is refused (R139, R153). -/
theorem executeStart_error (t : TrackId) (q : Word16) (h : s.directives.drain = none) :
    executeStart t q .error s = withResult q .refusedArgument 3 s := by
  unfold executeStart
  rw [h]
  rfl

/-- A START_TRACK during a drain is OVERLAP, whatever its descriptor read brings (R139, R153). -/
theorem executeStart_overlap (t : TrackId) (q : Word16) (r : ReadResult 128) {x : Drain}
    (h : s.directives.drain = some x) :
    executeStart t q r s = withResult q .overlap (BitVec.ofNat 32 x.sequence.toNat) s := by
  have hnumber : x.sequence.setWidth 32 = BitVec.ofNat 32 x.sequence.toNat := by
    apply BitVec.eq_of_toNat_eq
    simp
  unfold executeStart
  simp only [h, hnumber, formResult_eq]

theorem failAccess_descriptor (t : TrackId) (q : Word16) (a : Address) :
    failAccess (.scan (.descriptor t q)) a s =
      continueScan (fun held v => nextLinkRead held 0 v)
        (raiseFault .busRead ⟨none, 0, none, a, none, 0, (executeStart t q .error s).timebase.count⟩
          (executeStart t q .error s)) := rfl

/-- The addresses of the exchange area (spec 10.3). -/
theorem area_address {A : Address} (h : A.toNat + 0x740 ≤ 2 ^ 64) {n : Nat} (hn : n < 0x740) :
    (add64 A n).toNat = A.toNat + n := add64_toNat (by omega)

/-- Settles O24: a grant into the area with ANCHOR 0 fails at once, every other is issued; the addresses are sums that
fit in 64 bits. -/
theorem portGrants : Obligations.PortGrants := by
  refine ⟨fun s => servePort_anchor, fun s => servePort_quiet, rfl,
    fun s => ⟨rfl, rfl, fun n h => h.elim (serve_quiet n) fun hlow => serve_stop n (.inr hlow)⟩,
    fun n s x hidle hhigh hanchor hnext => ⟨serve_fails n hidle hhigh hanchor hnext, fun hout => ?issued⟩,
    fun s a => ⟨fun _ => rfl, rfl, fun t q hnone => ?refused, fun t q r hdrain => ?overlap, fun _ => rfl, fun _ => rfl,
      fun _ _ _ => rfl, fun _ _ => rfl⟩, inArea_iff,
    fun A hfits => ⟨rfl, fun _ => area_address hfits (by decide), fun _ _ _ => area_address hfits (by decide),
      fun t _ => ?descriptor, fun t _ => ?status, fun w => ?incident, fun n => ?flag⟩,
    fun A a t p g => ⟨rfl, fun _ => rfl, rfl, fun i hfits => ?action, fun _ => add64_toNat, fun _ => rfl,
      fun r hfits => ?capture⟩⟩
  case issued => rw [serve_issues n hidle hhigh hnext hout, hanchor]
  case refused => rw [failAccess_descriptor, executeStart_error t q hnone]; rfl
  case overlap => rw [failAccess_descriptor, executeStart_overlap t q .error hdrain]; rfl
  case descriptor =>
    have := t.isLt
    exact (area_address hfits (n := 0x0C0 + 16 * t.val) (by omega)).trans (Nat.add_assoc _ _ _).symm
  case status =>
    have := t.isLt
    exact (area_address hfits (n := 0x140 + 64 * t.val) (by omega)).trans (Nat.add_assoc _ _ _).symm
  case incident =>
    have := w.slot.isLt
    exact (area_address hfits (n := 0x340 + 32 * w.slot.val) (by omega)).trans (Nat.add_assoc _ _ _).symm
  case flag =>
    have := n.isLt
    exact (area_address hfits (n := 0x340 + 32 * n.val) (by omega)).trans (Nat.add_assoc _ _ _).symm
  case action => exact (add64_toNat (n := 64 + 32 * i) (by omega)).trans (Nat.add_assoc _ _ _).symm
  case capture => exact (add64_toNat (n := 64 + 16 * r.index) (by omega)).trans (Nat.add_assoc _ _ _).symm

/-! ## Completions without a requester (R133, R149) -/

/-- What is left of an abandoned read's completion is nothing, unless it fails while RESET_N is high (R133). -/
theorem abandonedRead_nothing {n : Nat} {r : ReadResult n} {x : PortAccess} {a : Address} {u : State}
    (h : r = .error → u.control.resetLow = true) : abandonedRead r x a u = u := by
  cases r with
  | data d => exact abandonedRead_data d x a u
  | error => exact abandonedRead_low _ x a (h rfl)

/-- A command is the completion of the accesses that `e` gives an effect for, and of no other; `l` is what is left of it where
a reset has abandoned the access: nothing, but for a scan's read that fails while RESET_N is high. -/
structure CompletedBy (c : Instr) (e : PortAccess → Address → Option (State → State)) (b : Bool)
    (l : PortAccess → Address → State → State) : Prop where
  exec : ∀ s, exec c s = .next (completeAccess e b s l)
  accesses : ∀ x a, completes c x = none ∧ e x a = none ∨ completes c x = some b ∧ ∃ f, e x a = some f
  lost : ∀ x a u, IsFailedScanRead c = false ∨ u.control.resetLow = true → l x a u = u

theorem completedBy_scanRead {n : Nat} {c : Instr} (r : ReadResult n)
    {e : PortAccess → Address → Option (State → State)} (hfails : r = .error → IsFailedScanRead c = true)
    (hexec : ∀ s, Machine.exec c s = .next (completeAccess e false s (abandonedRead r)))
    (haccesses : ∀ x a, completes c x = none ∧ e x a = none ∨ completes c x = some false ∧ ∃ f, e x a = some f) :
    ∃ e b l, CompletedBy c e b l :=
  ⟨e, false, abandonedRead r, hexec, haccesses, fun _ _ _ hu =>
    abandonedRead_nothing fun hr => hu.resolve_left (by rw [hfails hr]; decide)⟩

theorem completedBy_access {c : Instr} {e : PortAccess → Address → Option (State → State)} {b : Bool}
    (hexec : ∀ s, Machine.exec c s = .next (completeAccess e b s))
    (haccesses : ∀ x a, completes c x = none ∧ e x a = none ∨ completes c x = some b ∧ ∃ f, e x a = some f) :
    ∃ e b l, CompletedBy c e b l :=
  ⟨e, b, fun _ _ s => s, hexec, haccesses, fun _ _ _ _ => rfl⟩

/-- Each completion is of the accesses that `completes` names for it: the scan's reads, and the rest, access by access. -/
theorem exec_completion {c : Instr} (hc : IsCompletion c = true) : ∃ e b l, CompletedBy c e b l := by
  cases c
  case' startTrack r => refine completedBy_scanRead r (by rintro rfl; rfl) (fun _ => rfl) ?_
  case' scanLinkReadDone r => refine completedBy_scanRead r (by rintro rfl; rfl) (fun _ => rfl) ?_
  case' heldFlagReadDone r => refine completedBy_scanRead r (by rintro rfl; rfl) (fun _ => rfl) ?_
  case' directiveSlotReadDone r => cases r
  case' directiveSlotReadDone.error => refine completedBy_scanRead .error (fun _ => rfl) (fun _ => rfl) ?_
  all_goals
    first
    | exact absurd hc Bool.false_ne_true
    | refine completedBy_access (fun _ => rfl) ?_
    | skip
  all_goals
    rintro (_ | _ | _ | ⟨_, _ | _ | _ | _⟩ | (_ | _ | _ | _) | (_ | _ | _)) a
    all_goals first
      | exact .inl ⟨rfl, rfl⟩
      | exact .inr ⟨rfl, _, rfl⟩

/-- The access that a completion names lands, and where a reset has abandoned it nothing else follows. -/
theorem exec_abandoned {c : Instr} {x : PortAccess} {a : Address} {b : Bool} (hc : IsCompletion c = true)
    (hflight : s.port.inFlight = some ⟨x, a, true⟩) (hx : completes c x = some b)
    (hquiet : IsFailedScanRead c = false ∨ s.control.resetLow = true) :
    exec c s = .next (servePort (landAccess ⟨x, a, true⟩ b s)) := by
  obtain ⟨e, b', l, hby⟩ := exec_completion hc
  rcases hby.accesses x a with ⟨hnone, -⟩ | ⟨hsome, f, hf⟩
  · exact absurd (hx.symm.trans hnone) (by simp)
  · obtain rfl : b' = b := Option.some.inj (hsome.symm.trans hx)
    have hlanded : (landAccess ⟨x, a, true⟩ b' s).control = s.control := by cases b' <;> rfl
    rw [hby.exec, completeAccess_orphan hflight hf, hby.lost]
    rw [hlanded]
    exact hquiet

theorem isCompletion_of_completes {c : Instr} {x : PortAccess} {b : Bool} (h : completes c x = some b) :
    IsCompletion c = true := by
  unfold completes at h
  split at h <;> first | rfl | cases h

/-- A completion while none of its accesses is in flight is no event (log 3). -/
theorem exec_no_event {c : Instr} (hc : IsCompletion c = true)
    (h : ∀ f, s.port.inFlight = some f → completes c f.access = none) : exec c s = .next s := by
  obtain ⟨e, b, l, hby⟩ := exec_completion hc
  rw [hby.exec, completeAccess_other fun f hf => ?_]
  rcases hby.accesses f.access f.address with ⟨-, hnone⟩ | ⟨hsome, -⟩
  · exact hnone
  · exact absurd (hsome.symm.trans (h f hf)) (by simp)

/-- A scan's read that fails after a reset raises BUS_READ with the context of what it was issued for (R133, R145). -/
theorem complete_abandoned_scan {n : Nat} {x : ScanRead} {a : Address} {f : State → State}
    {e : PortAccess → Address → Option (State → State)} (hhigh : s.control.resetLow = false)
    (hflight : s.port.inFlight = some ⟨.scan x, a, true⟩) (he : e (.scan x) a = some f) :
    completeAccess e false s (abandonedRead (.error : ReadResult n)) =
      servePort (raiseFault .busRead (x.faultContext a s.timebase.count) (released s)) := by
  rw [completeAccess_orphan hflight he, landAccess_read, abandonedRead_error x a (s := released s) hhigh]
  rfl

/-- Settles O22: the access lands whoever asked for it, and a failed scan's read raises its fault. -/
theorem completionsWithoutRequester : Obligations.CompletionsWithoutRequester := by
  refine ⟨fun c s x a b hflight hx hquiet => ?landed, fun s a hhigh => ⟨?slot, ?descriptor, ?link, ?flag⟩,
    fun c s hc h => exec_no_event hc h⟩
  case landed =>
    rw [exec_abandoned (isCompletion_of_completes hx) hflight hx hquiet]
    cases b <;> rfl
  case slot => exact fun hflight => congrArg _ (complete_abandoned_scan (n := 256) hhigh hflight rfl)
  case descriptor => exact fun t q hflight => congrArg _ (complete_abandoned_scan (n := 128) hhigh hflight rfl)
  case link => exact fun t x hflight => congrArg _ (complete_abandoned_scan (n := 64) hhigh hflight rfl)
  case flag => exact fun n hflight => congrArg _ (complete_abandoned_scan (n := 32) hhigh hflight rfl)

end Sys2Proof.Machine.PortRecords
end

section
/-! SUPPORT. The ends of tracks (R38, R39): one halt or abort, several of them one after another, the class actions of a
fault, and the STOP of the device. -/

namespace Sys2Proof.Machine.TrackEndings

open Sys2Proof.Machine.Laws

variable {s u v : State} {t : TrackId} {cause : CloseCause} {o : DirectiveOutcome} {d : Word32}

/-! ## A status write, then the answer of a drain -/

/-- The status write of a track and the answer of a drain of it touch the port and the drain alone. -/
theorem answerDrain_formStatus (t : TrackId) (o : DirectiveOutcome) (d : Word32) (v : State) :
    ∃ P D, answerDrain t o d (formStatus t v) = { v with port := P, directives := D } ∧
      P = { v.port with out := P.out, lastStatus := P.lastStatus } ∧ (∀ r, .result r ∈ v.port.out → .result r ∈ P.out) ∧
      StatusFormed t { v with port := P } ∧ (∀ x, x ≠ t → StatusFormed x v → StatusFormed x { v with port := P }) ∧
      (∀ q, v.directives.drain = some ⟨q, t⟩ → D.drain = none ∧
        P.out.getLast? = some (.result ⟨q, o, d, v.timebase.count⟩)) ∧
      ((∀ q, v.directives.drain ≠ some ⟨q, t⟩) → D = v.directives) := by
  obtain ⟨Q, hform, hQ, hresults⟩ := formStatus_spec t v
  obtain ⟨hstatus, hstatuses⟩ := formStatus_status t v
  have hans := answerDrain_spec t o d (formStatus t v)
  rw [hform] at hstatus hstatuses hans ⊢
  generalize hz : answerDrain t o d { v with port := Q } = z at hans ⊢
  have hport : z.port = { Q with out := z.port.out } := hans.port
  refine ⟨z.port, z.directives, ?_, ?_, fun r hr => hans.keeps _ (hresults r hr), ?_, fun x hx hs => ?_, hans.answered,
    hans.other⟩
  case refine_1 =>
    subst hz
    unfold answerDrain
    split <;> [split; skip] <;> rfl
  case refine_2 => rw [hport, hQ]
  case refine_3 => exact StatusFormed.kept hstatus rfl (by rw [hport]) fun i hi => hans.keeps _ hi
  case refine_4 => exact StatusFormed.kept (hstatuses x hx hs) rfl (by rw [hport]) fun i hi => hans.keeps _ hi

/-! ## One track -/

/-- A track has ended: it is stripped, its items are `g` of what an end leaves, its status write is formed, a drain of it is
answered, and of the attention causes those of `must` are raised, and at most those of `may`. -/
structure EndOf (may must : List Cause) (cause : CloseCause) (g : Track → Track) (o : DirectiveOutcome) (d : Word32)
    (t : TrackId) (s u : State) : Prop where
  track : u.tracks.get t = g (trackEnded t s)
  status : StatusFormed t u
  statuses : ∀ x, x ≠ t → StatusFormed x s → StatusFormed x u
  stripped : Stripped t cause s u
  purged : PurgedAndCut t s u
  outside : Outside may t s u
  raised : ∀ c ∈ must, u.attends c = true
  inHand : u.queue.inHand = s.queue.inHand.filter fun e => !(e.track == t)
  answered : ∀ q, s.directives.drain = some ⟨q, t⟩ → u.directives.drain = none ∧
    u.port.out.getLast? = some (.result ⟨q, o, d, s.timebase.count⟩)
  other : (∀ q, s.directives.drain ≠ some ⟨q, t⟩) → u.directives = s.directives

variable {may must : List Cause} {g : Track → Track} {T : Table 8 Track} {A : BitVec 7}

theorem Outside.weaken {cs ds : List Cause} (h : Outside cs t s u) (hd : ∀ c ∈ cs, c ∈ ds) : Outside ds t s u :=
  { h with causes := RaisesOnly.mono h.causes hd }

/-- After the strip only the track's own items and the causes change; then its status write is formed and a drain of it
answered. -/
theorem endOf_strip (hstrip : StripOf t cause s u)
    (hv : v = { u with tracks := T, control := { u.control with attention := A } })
    (hk : T.get t = g (trackEnded t s)) (hT : ∀ x, x ≠ t → T.get x = u.tracks.get x) (hmay : .retired ∈ may)
    (hcauses : RaisesOnly may u v) (hmust : ∀ c ∈ must, v.attends c = true) :
    EndOf may must cause g o d t s (answerDrain t o d (formStatus t v)) := by
  obtain ⟨P, D, heq, hP, hresults, hstatus, hstatuses, hanswered, hother⟩ := answerDrain_formStatus t o d v
  rw [heq]
  obtain ⟨hentries, htracks, hlanes, hwindows, hlisteners, hsummaries, hrequests, hkept⟩ := hstrip.stripped
  have hout := Outside.weaken (ds := may) hstrip.outside (by simpa using hmay)
  have hsame : ∀ x, x ≠ t → T.get x = s.tracks.get x := fun x hx => (hT x hx).trans (htracks x hx)
  have hraises : RaisesOnly may s v := RaisesOnly.trans hout.causes hcauses
  have hstatusEq : v.port.lastStatus = s.port.lastStatus ∧ v.port.out = s.port.out := by
    rw [hv]
    exact ⟨by rw [hstrip.port], by rw [hstrip.port]⟩
  have hattends : ∀ c, u.attends c = true → v.attends c = true := fun c => (hcauses c).1
  have hPtracks : P.tracks = u.port.tracks := by rw [hP, hv]
  have hPsummaries : P.summaries = u.port.summaries := by rw [hP, hv]
  have hdirectives : v.directives = s.directives := by rw [hv]; exact hstrip.directives
  have hcount : v.timebase.count = s.timebase.count := by rw [hv]; exact congrArg Timebase.count hout.timebase
  have hcontrol : v.control = { s.control with attention := v.control.attention } := by
    rw [hv]
    show ({ u.control with attention := A } : Control) = _
    rw [hout.control]
  refine
    { track := ?track, status := hstatus, statuses := fun x hx h => ?statuses, stripped := ?stripped, purged := ?purged
      outside := ?outside, raised := hmust, inHand := ?inHand, answered := fun q hq => ?answered, other := fun h => ?other }
  case track => rw [← hk, hv]
  case statuses =>
    refine hstatuses x hx (StatusFormed.kept h ?_ (by rw [hstatusEq.1]) fun i hi => by rw [hstatusEq.2]; exact hi)
    rw [hv]
    exact hsame x hx
  case stripped =>
    rw [hv]
    refine ⟨hentries, hsame, hlanes, hwindows, hlisteners, ?_, fun x hx => ?_, QueuesKept.trans hkept (Laws.QueuesKept.of rfl ?_ ?_)⟩
    · exact hPsummaries.trans hsummaries
    · show P.tracks.get x = _
      rw [hPtracks]
      exact hrequests x hx
    · show P = _
      rw [hP, hv]
    · exact fun r hr => hresults r (by rw [hv]; exact hr)
  case purged =>
    obtain ⟨hreq, hret⟩ := hstrip.purged
    refine ⟨?_, fun h => hattends _ (hret h)⟩
    show P.tracks.get t = _
    rw [hPtracks]
    exact hreq
  case outside =>
    refine ⟨?_, ?_, ?_, ?_, ?_, hcontrol, ?_, ?_, fun x hx => ?_, hraises⟩
    · rw [hv]; exact hout.timebase
    · rw [hv]; exact hsame
    · rw [hv]; exact hout.gangs
    · rw [hv]; exact hout.faults
    · rw [hv]; exact hout.scanner
    · rw [hv]; exact hout.memory
    · rw [hv]; exact hout.detectors
    · show P.tracks.get x = _
      rw [hPtracks]
      exact hrequests x hx
  case inHand => rw [hv]; exact hstrip.inHand
  case answered =>
    obtain ⟨hnone, hlast⟩ := hanswered q (by rw [hdirectives]; exact hq)
    exact ⟨hnone, by rw [← hcount]; exact hlast⟩
  case other => exact (hother (by rw [hdirectives]; exact h)).trans hdirectives

theorem abortTrack_endOf (t : TrackId) (cause : CloseCause) (d : Word32) (s : State) :
    EndOf [.retired] [] cause (fun k => { k with state := .off }) .endedByAbort d t s (abortTrack t cause d s) := by
  have hstrip := stripTrack_spec t cause s
  unfold abortTrack
  generalize stripTrack t cause s = u at hstrip ⊢
  rw [setTrackState_eq, enter_other _ (by decide)]
  refine endOf_strip hstrip rfl ?_ ?_ (by decide) (RaisesOnly.of rfl) (by simp)
  · simp [hstrip.track, trackEnded]
  · intro x hx
    simp [Table.get_put, Ne.symm hx]

theorem haltTrack_endOf (kind : FaultKind) (h : (s.tracks.get t).state.alive = true) :
    EndOf [.retired, .trackHalt] [.trackHalt] .trackHalt (fun k => { k with state := .halted, haltKind := some kind })
      .endedByHalt (BitVec.ofNat 32 kind.code.val) t s (haltTrack t kind s) := by
  have hstrip := stripTrack_spec t .trackHalt s
  unfold haltTrack
  rw [if_pos h]
  generalize stripTrack t .trackHalt s = u at hstrip ⊢
  simp only []
  rw [setTrackState_eq, enter_other _ (by decide), modTrack_eq, withTrack_withTrack, raiseAttention_eq]
  refine endOf_strip hstrip rfl ?_ ?_ (by decide) ?_ ?_
  · simp [hstrip.track, trackEnded]
  · intro x hx
    simp [withTrack_get, Ne.symm hx]
  · exact RaisesOnly.trans (RaisesOnly.of rfl) (withCause_raises (by decide) _)
  · simp [withCause_attends]

theorem haltTrack_dead (kind : FaultKind) (h : (s.tracks.get t).state.alive = false) : haltTrack t kind s = s :=
  if_neg (by simp [h])

/-- Settles O43: each end is the strip of the track, its new state, and the answer of its drain. -/
theorem trackEnds : Obligations.TrackEnds := by
  refine ⟨fun st => by cases st <;> decide, fun s t kind cause d => ⟨haltTrack_dead kind, fun h => ?halt, ?abort⟩⟩
  case halt =>
    have e := haltTrack_endOf kind h
    exact ⟨e.track, e.status, e.stripped, e.purged, e.raised _ (by decide), e.outside.causes, e.outside.control,
      e.outside.faults, e.outside.timebase, e.outside.gangs, e.outside.memory, e.answered⟩
  case abort =>
    have e := abortTrack_endOf t cause d s
    exact ⟨e.track, e.status, e.stripped, e.purged, e.outside.causes, e.outside.control,
      e.outside.faults, e.outside.timebase, e.outside.gangs, e.outside.memory, e.answered⟩

end Sys2Proof.Machine.TrackEndings
end

section
/-! SUPPORT. Several ends of tracks one after another (R40, R119, R120), each as if it were the first. -/

namespace Sys2Proof.Machine.TrackEndings

open Sys2Proof.Machine.Laws

/-- The owner is one of the tracks of a list. -/
abbrev OwnerIn (D : List TrackId) (owner : Option TrackId) : Prop := ∃ t ∈ D, owner = some t

/-- The window record when a window closes now with a cause (R94). -/
def closed (cause : CloseCause) (s : State) (w : Window) : Window :=
  { w with state := .closing, cause := some cause, closeTime := s.timebase.count }

/-- The tracks of a list have ended, as `EndOf` says of each, and nothing else has changed. -/
structure EndedAll (may must : List Cause) (cause : CloseCause) (g : Track → Track) (o : DirectiveOutcome) (d : Word32)
    (D : List TrackId) (s u : State) : Prop where
  ended : ∀ t ∈ D, u.tracks.get t = g (trackEnded t s) ∧ StatusFormed t u
  spared : ∀ t, t ∉ D → u.tracks.get t = s.tracks.get t ∧ u.port.tracks.get t = s.port.tracks.get t
  entries : u.queue.entries = s.queue.entries.filter fun e => decide (e.track ∉ D)
  inHand : u.queue.inHand = s.queue.inHand.filter fun e => decide (e.track ∉ D)
  lanes : ∀ l, u.lanes.get l = if OwnerIn D (s.lanes.get l).owner then (s.lanes.get l).free else s.lanes.get l
  windows : ∀ p, u.probes.windows.get p =
    if OwnerIn D (s.probes.windows.get p).owner ∧ (s.probes.windows.get p).state = .isOpen then
      closed cause s (s.probes.windows.get p)
    else s.probes.windows.get p
  listeners : ∀ p, u.probes.listeners.get p =
    if (s.probes.listeners.get p).armed = true ∧ OwnerIn D (s.probes.listeners.get p).owner then
      (s.probes.listeners.get p).disarm
    else s.probes.listeners.get p
  summaries : u.port.summaries = s.port.summaries ++ D.flatMap fun t => closingSummaries (ownedBy t) cause s
  kept : QueuesKept s u
  purged : ∀ t ∈ D, PurgedAndCut t s u
  raised : ∀ t ∈ D, ∀ c ∈ must, u.attends c = true
  answered : ∀ q t, s.directives.drain = some ⟨q, t⟩ → t ∈ D →
    u.directives.drain = none ∧ .result ⟨q, o, d, s.timebase.count⟩ ∈ u.port.out
  other : (∀ q t, s.directives.drain = some ⟨q, t⟩ → t ∉ D) → u.directives = s.directives
  timebase : u.timebase = s.timebase
  gangs : u.gangs = s.gangs
  faults : u.faults = s.faults
  scanner : u.scanner = s.scanner
  control : u.control = { s.control with attention := u.control.attention }
  memory : u.memory = s.memory
  detectors : u.probes.detectors = s.probes.detectors
  causes : RaisesOnly may s u

section
variable {may must : List Cause} {cause : CloseCause} {g : Track → Track} {o : DirectiveOutcome} {d : Word32}
variable {D : List TrackId} {s u v : State} {t : TrackId}

theorem EndedAll.nil (s : State) : EndedAll may must cause g o d [] s s where
  ended := by simp
  spared _ _ := ⟨rfl, rfl⟩
  entries := by simp
  inHand := by cases s.queue.inHand <;> simp [Option.filter]
  lanes := by simp
  windows := by simp
  listeners := by simp
  summaries := by simp
  kept := QueuesKept.refl s
  purged := by simp
  raised := by simp
  answered := by simp
  other _ := rfl
  timebase := rfl
  gangs := rfl
  faults := rfl
  scanner := rfl
  control := rfl
  memory := rfl
  detectors := rfl
  causes := Laws.RaisesOnly.of rfl

theorem ownerIn_concat {owner : Option TrackId} : OwnerIn (D ++ [t]) owner ↔ OwnerIn D owner ∨ owner = some t := by
  simp [OwnerIn, or_and_right, exists_or]

/-- An earlier end took nothing of a track that is spared. -/
theorem EndedAll.entriesOf (h : EndedAll may must cause g o d D s u) (ht : t ∉ D) : u.entriesOf t = s.entriesOf t := by
  unfold State.entriesOf
  rw [h.entries, List.filter_filter]
  refine List.filter_congr fun e _ => ?_
  by_cases he : e.track = t
  · simp [he, ht]
  · simp [he]

theorem EndedAll.handOf (h : EndedAll may must cause g o d D s u) (ht : t ∉ D) : handOf u t = handOf s t := by
  unfold Machine.handOf
  rw [h.inHand]
  cases s.queue.inHand with
  | none => rfl
  | some e =>
    by_cases he : e.track = t
    · simp [Option.filter, he, ht]
    · by_cases hd : e.track ∈ D <;> simp [Option.filter, he, hd]

/-- The windows that earlier ends closed are not of a track that is spared. -/
theorem EndedAll.closingSummaries (h : EndedAll may must cause g o d D s u) (ht : t ∉ D) :
    closingSummaries (ownedBy t) cause u = closingSummaries (ownedBy t) cause s := by
  unfold Machine.closingSummaries
  refine List.filterMap_congr fun p _ => ?_
  have hw := h.windows p
  by_cases hp : OwnerIn D (s.probes.windows.get p).owner ∧ (s.probes.windows.get p).state = .isOpen
  · obtain ⟨x, hx, howner⟩ := hp.1
    have hxt : x ≠ t := fun e => ht (e ▸ hx)
    have hclosed : (u.probes.windows.get p).state ≠ .isOpen := by
      rw [hw, if_pos hp]
      simp [closed]
    exact (summaryAtClose_none (.inr hclosed)).trans (summaryAtClose_none (.inl (by simp [ownedBy, howner, hxt]))).symm
  · rw [if_neg hp] at hw
    exact summaryAtClose_congr (by rw [h.timebase]) hw rfl

/-- One more track ends. -/
theorem EndedAll.concat (h : EndedAll may must cause g o d D s u) (ht : t ∉ D) (e : EndOf may must cause g o d t u v) :
    EndedAll may must cause g o d (D ++ [t]) s v := by
  obtain ⟨hentries, htracks, hlanes, hwindows, hlisteners, hsummaries, hrequests, hkept⟩ := e.stripped
  have hne : ∀ x ∈ D, x ≠ t := fun x hx hxt => ht (hxt ▸ hx)
  have hcount : u.timebase.count = s.timebase.count := congrArg Timebase.count h.timebase
  have hsame := h.spared t ht
  refine
    { ended := fun x hx => ?ended, spared := fun x hx => ?spared, entries := ?entries, inHand := ?inHand
      lanes := fun l => ?lanes, windows := fun p => ?windows, listeners := fun p => ?listeners, summaries := ?summaries
      kept := QueuesKept.trans h.kept hkept, purged := fun x hx => ?purged, raised := fun x hx c hc => ?raised
      answered := fun q x hq hx => ?answered, other := fun hother => ?other
      timebase := e.outside.timebase.trans h.timebase, gangs := e.outside.gangs.trans h.gangs
      faults := e.outside.faults.trans h.faults, scanner := e.outside.scanner.trans h.scanner
      control := by rw [e.outside.control, h.control], memory := e.outside.memory.trans h.memory
      detectors := e.outside.detectors.trans h.detectors, causes := RaisesOnly.trans h.causes e.outside.causes }
  case ended =>
    rcases List.mem_append.mp hx with hx | hx
    · obtain ⟨hk, hs⟩ := h.ended x hx
      exact ⟨(htracks x (hne x hx)).trans hk, e.statuses x (hne x hx) hs⟩
    · rw [List.mem_singleton.mp hx]
      exact ⟨by rw [e.track, trackEnded_congr hsame.1 (h.entriesOf ht) (h.handOf ht)], e.status⟩
  case spared =>
    rw [List.mem_append, List.mem_singleton, not_or] at hx
    obtain ⟨hk, hr⟩ := h.spared x hx.1
    exact ⟨(htracks x hx.2).trans hk, (hrequests x hx.2).trans hr⟩
  case entries =>
    rw [hentries, h.entries, List.filter_filter]
    refine List.filter_congr fun y _ => ?_
    by_cases hy : y.track = t <;> simp [hy]
  case inHand =>
    rw [e.inHand, h.inHand, Option.filter_filter]
    congr 1
    funext y
    by_cases hy : y.track = t <;> simp [hy]
  case lanes =>
    simp only [ownerIn_concat]
    by_cases hl : OwnerIn D (s.lanes.get l).owner
    · have hu := (h.lanes l).trans (if_pos hl)
      refine Eq.trans ?_ (if_pos (.inl hl)).symm
      rw [hlanes l, hu]
      exact if_neg (by simp [Lane.free])
    · have hu := (h.lanes l).trans (if_neg hl)
      rw [hlanes l, hu]
      simp only [hl, false_or]
      rfl
  case windows =>
    simp only [ownerIn_concat]
    by_cases hp : OwnerIn D (s.probes.windows.get p).owner ∧ (s.probes.windows.get p).state = .isOpen
    · have hu := (h.windows p).trans (if_pos hp)
      refine Eq.trans ?_ (if_pos ⟨.inl hp.1, hp.2⟩).symm
      rw [hwindows p, hu]
      exact if_neg (by simp [closed])
    · have hu := (h.windows p).trans (if_neg hp)
      rw [hwindows p, hu, hcount]
      simp only [or_and_right, hp, false_or]
      rfl
  case listeners =>
    simp only [ownerIn_concat]
    by_cases hp : (s.probes.listeners.get p).armed = true ∧ OwnerIn D (s.probes.listeners.get p).owner
    · have hu := (h.listeners p).trans (if_pos hp)
      refine Eq.trans ?_ (if_pos ⟨hp.1, .inl hp.2⟩).symm
      rw [hlisteners p, hu]
      exact if_neg (by simp [Listener.disarm])
    · have hu := (h.listeners p).trans (if_neg hp)
      rw [hlisteners p, hu]
      simp only [and_or_left, hp, false_or]
      rfl
  case summaries =>
    rw [hsummaries, h.summaries, h.closingSummaries ht]
    simp
  case purged =>
    rcases List.mem_append.mp hx with hx | hx
    · obtain ⟨hreq, hret⟩ := h.purged x hx
      exact ⟨(hrequests x (hne x hx)).trans hreq, fun hr => (e.outside.causes _).1 (hret hr)⟩
    · rw [List.mem_singleton.mp hx]
      exact purgedAndCut_congr hsame.1 hcount (h.entriesOf ht) (h.handOf ht) hsame.2 e.purged
  case raised =>
    exact e.raised c hc
  case answered =>
    rcases List.mem_append.mp hx with hx | hx
    · obtain ⟨hnone, hmem⟩ := h.answered q x hq hx
      rw [e.other (by simp [hnone])]
      exact ⟨hnone, hkept.2.2.2.2.2 _ hmem⟩
    · rw [List.mem_singleton.mp hx] at hq
      have hu : u.directives = s.directives := h.other fun q' x' hq' hx' => by
        rw [hq] at hq'
        cases hq'
        exact ht hx'
      obtain ⟨hnone, hlast⟩ := e.answered q (by rw [hu]; exact hq)
      rw [hcount] at hlast
      exact ⟨hnone, List.mem_of_getLast? hlast⟩
  case other =>
    have hu : u.directives = s.directives := h.other fun q x hq hx =>
      hother q x hq (List.mem_append_left _ hx)
    rw [e.other fun q hq => hother q t (by rw [← hu]; exact hq) (by simp), hu]

/-- A walk over tracks that ends those of a set and leaves the others. -/
theorem EndedAll.foldl {f : State → TrackId → State} {gone : TrackId → Bool}
    (hend : ∀ t u, gone t = true → u.tracks.get t = s.tracks.get t → EndOf may must cause g o d t u (f u t))
    (hkeep : ∀ t u, gone t = false → u.tracks.get t = s.tracks.get t → f u t = u) (L : List TrackId) (hL : L.Nodup)
    (hD : ∀ t ∈ L, t ∉ D) (h : EndedAll may must cause g o d D s u) :
    EndedAll may must cause g o d (D ++ L.filter gone) s (L.foldl f u) := by
  induction L generalizing D u with
  | nil => simpa using h
  | cons t L ih =>
    obtain ⟨htL, hL⟩ := List.nodup_cons.mp hL
    have ht : t ∉ D := hD t List.mem_cons_self
    have hsame := (h.spared t ht).1
    rw [List.foldl_cons]
    cases hg : gone t with
    | true =>
      have hstep := h.concat ht (hend t u hg hsame)
      have hrest := ih hL (fun x hx hmem => ?_) hstep
      · rw [List.filter_cons_of_pos hg]
        simpa using hrest
      · rcases List.mem_append.mp hmem with hmem | hmem
        · exact hD x (List.mem_cons_of_mem _ hx) hmem
        · exact htL (List.mem_singleton.mp hmem ▸ hx)
    | false =>
      rw [hkeep t u hg hsame, List.filter_cons_of_neg (by simp [hg])]
      exact ih hL (fun x hx => hD x (List.mem_cons_of_mem _ hx)) h

theorem allTracks_nodup : allTracks.Nodup := by decide

theorem mem_allTracks (t : TrackId) : t ∈ allTracks := by revert t; decide

end

/-- The halt requests of a set of tracks (R119). -/
theorem haltAll_endedAll (hit : TrackId → Bool) (kind : FaultKind) (s : State) :
    EndedAll [.retired, .trackHalt] [.trackHalt] .trackHalt (fun k => { k with state := .halted, haltKind := some kind })
      .endedByHalt (BitVec.ofNat 32 kind.code.val) (allTracks.filter fun t => hit t && (s.tracks.get t).state.alive) s
      (haltAll hit kind s) := by
  unfold haltAll
  have h := EndedAll.foldl (gone := fun t => hit t && (s.tracks.get t).state.alive) (D := []) (u := s) (s := s)
    (f := fun s t => if hit t then haltTrack t kind s else s) (may := [.retired, .trackHalt]) (must := [.trackHalt])
    (cause := .trackHalt) (g := fun k => { k with state := .halted, haltKind := some kind }) (o := .endedByHalt)
    (d := BitVec.ofNat 32 kind.code.val) ?hend ?hkeep allTracks allTracks_nodup (by simp) (.nil s)
  · exact h
  case hend =>
    intro t u hg hk
    rw [Bool.and_eq_true] at hg
    simp only [hg.1, if_true]
    exact haltTrack_endOf kind (by rw [hk]; exact hg.2)
  case hkeep =>
    intro t u hg hk
    by_cases ht : hit t = true
    · simp only [ht, Bool.true_and, if_true] at hg ⊢
      exact haltTrack_dead kind (by rw [hk]; exact hg)
    · exact if_neg ht

/-- The aborts of every track that is not OFF or HALTED (R40). -/
theorem abortAll_endedAll (s : State) :
    EndedAll [.retired] [] .deviceStop (fun k => { k with state := .off }) .endedByAbort 0
      (allTracks.filter fun t => (s.tracks.get t).state.alive) s (abortAll s) := by
  unfold abortAll
  have h := EndedAll.foldl (gone := fun t => (s.tracks.get t).state.alive) (D := []) (u := s) (s := s)
    (f := fun s t => if (s.tracks.get t).state.alive then abortTrack t .deviceStop 0 s else s) (may := [.retired])
    (must := []) (cause := .deviceStop) (g := fun k => { k with state := .off }) (o := .endedByAbort) (d := 0)
    ?hend ?hkeep allTracks allTracks_nodup (by simp) (.nil s)
  · exact h
  case hend =>
    intro t u hg hk
    simp only [hk, hg, if_true]
    exact abortTrack_endOf t .deviceStop 0 u
  case hkeep =>
    intro t u hg hk
    simp [hk, hg]

end Sys2Proof.Machine.TrackEndings
end

section
/-! SUPPORT. The class actions of a fault (R118 to R120) and the STOP of the device (R175). -/

namespace Sys2Proof.Machine.TrackEndings

open Sys2Proof.Machine.Laws

variable {s u : State} {gone : TrackId → Bool}

theorem mem_gone {t : TrackId} : t ∈ allTracks.filter gone ↔ gone t = true := by simp [mem_allTracks]

theorem ownerIn_gone {owner : Option TrackId} :
    OwnerIn (allTracks.filter gone) owner ↔ ∃ t, owner = some t ∧ gone t = true := by
  simp only [OwnerIn, mem_gone, and_comm]

theorem not_ownerIn_gone {owner : Option TrackId} (h : ∀ t, owner = some t → gone t = false) :
    ¬ OwnerIn (allTracks.filter gone) owner := by
  rw [ownerIn_gone]
  rintro ⟨t, ht, hg⟩
  exact Bool.false_ne_true ((h t ht).symm.trans hg)

section
variable {may must : List Cause} {cause : CloseCause} {g : Track → Track} {o : DirectiveOutcome} {d : Word32}

theorem EndedAll.entries_gone (h : EndedAll may must cause g o d (allTracks.filter gone) s u) :
    u.queue.entries = s.queue.entries.filter fun e => !gone e.track := by
  rw [h.entries]
  refine List.filter_congr fun e _ => ?_
  simp [mem_allTracks]

theorem EndedAll.lane_freed (h : EndedAll may must cause g o d (allTracks.filter gone) s u) {l : LaneId} {t : TrackId}
    (ho : (s.lanes.get l).owner = some t) (ht : gone t = true) : u.lanes.get l = (s.lanes.get l).free :=
  (h.lanes l).trans (if_pos (ownerIn_gone.mpr ⟨t, ho, ht⟩))

theorem EndedAll.lane_kept (h : EndedAll may must cause g o d (allTracks.filter gone) s u) {l : LaneId}
    (ho : ∀ t, (s.lanes.get l).owner = some t → gone t = false) : u.lanes.get l = s.lanes.get l :=
  (h.lanes l).trans (if_neg (not_ownerIn_gone ho))

theorem EndedAll.window_closed (h : EndedAll may must cause g o d (allTracks.filter gone) s u) {p : ProbeId} {t : TrackId}
    (ho : (s.probes.windows.get p).owner = some t) (ht : gone t = true) (hw : (s.probes.windows.get p).state = .isOpen) :
    u.probes.windows.get p = closed cause s (s.probes.windows.get p) :=
  (h.windows p).trans (if_pos ⟨ownerIn_gone.mpr ⟨t, ho, ht⟩, hw⟩)

theorem EndedAll.window_kept (h : EndedAll may must cause g o d (allTracks.filter gone) s u) {p : ProbeId}
    (hw : (s.probes.windows.get p).state ≠ .isOpen ∨ ∀ t, (s.probes.windows.get p).owner = some t → gone t = false) :
    u.probes.windows.get p = s.probes.windows.get p :=
  (h.windows p).trans (if_neg fun hc => hw.elim (· hc.2) fun ho => not_ownerIn_gone ho hc.1)

theorem EndedAll.listener_disarmed (h : EndedAll may must cause g o d (allTracks.filter gone) s u) {p : ProbeId}
    {t : TrackId} (ha : (s.probes.listeners.get p).armed = true) (ho : (s.probes.listeners.get p).owner = some t)
    (ht : gone t = true) : u.probes.listeners.get p = (s.probes.listeners.get p).disarm :=
  (h.listeners p).trans (if_pos ⟨ha, ownerIn_gone.mpr ⟨t, ho, ht⟩⟩)

theorem EndedAll.listener_kept (h : EndedAll may must cause g o d (allTracks.filter gone) s u) {p : ProbeId}
    (hw : (s.probes.listeners.get p).armed = false ∨
      ∀ t, (s.probes.listeners.get p).owner = some t → gone t = false) :
    u.probes.listeners.get p = s.probes.listeners.get p :=
  (h.listeners p).trans (if_neg fun hc => hw.elim (fun ha => Bool.false_ne_true (ha.symm.trans hc.1))
    fun ho => not_ownerIn_gone ho hc.2)

end

/-! ## STOP -/

/-- The device as STOP leaves it before the aborts. -/
def stopping (s : State) : State := dropTickEvents (s.modControl fun k => { k with device := .stopped, runRefused := false })

theorem stopping_port (s : State) : (stopping s).port = s.port := rfl

theorem stopping_captures (s : State) : (stopping s).probes.captures = s.probes.captures := rfl

theorem stopping_windows (s : State) : (stopping s).probes.windows = s.probes.windows := rfl

theorem stopping_reference (s : State) (p : ProbeId) :
    ((stopping s).probes.detectors.get p).reference = (s.probes.detectors.get p).reference := by
  unfold stopping dropTickEvents
  simp only [Table.get_tab, modControl_probes]

theorem stopping_listeners (s : State) : (stopping s).probes.listeners = s.probes.listeners := rfl

theorem closingSummaries_stopping (f : Window → Bool) (c : CloseCause) (s : State) :
    closingSummaries f c (stopping s) = closingSummaries f c s := by
  unfold closingSummaries
  exact List.filterMap_congr fun p _ => summaryAtClose_congr rfl (by rw [stopping_windows]) rfl

theorem queuesKept_stopping (h : QueuesKept (stopping s) u) : QueuesKept s u := by
  unfold QueuesKept at h ⊢
  rwa [stopping_port, stopping_captures] at h

theorem stopCommand_stopped (h : s.control.device = .stopped) : stopCommand s = s := by
  unfold stopCommand
  rw [h]

theorem stopCommand_ends (h : s.control.device ≠ .stopped) : stopCommand s = formSummary (abortAll (stopping s)) := by
  unfold stopCommand
  split
  case h_1 hd => exact absurd hd h
  case h_2 => rfl
  case h_3 => rfl

theorem exec_stop (h : s.control.resetLow = false) :
    exec .stop s = .next (respond .written (servePort (stopCommand s))) := controlWrite_high stopCommand h

/-- Settles O17: STOP aborts every track that is not OFF or HALTED, and then forms a summary. -/
theorem stopEndsTracks : Obligations.StopEndsTracks := by
  refine fun s hhigh => ⟨fun hd => ?stopped, fun hd => ⟨abortAll (stopping s), ?exec, ?_⟩⟩
  case stopped => rw [exec_stop hhigh, stopCommand_stopped hd]
  case exec => rw [exec_stop hhigh, stopCommand_ends hd]
  have e : EndedAll [.retired] [] .deviceStop (fun k => { k with state := .off }) .endedByAbort 0
      (allTracks.filter fun t => (s.tracks.get t).state.alive) (stopping s) (abortAll (stopping s)) :=
    abortAll_endedAll (stopping s)
  generalize abortAll (stopping s) = u at e ⊢
  have hspared {t : TrackId} (h : (s.tracks.get t).state.alive = false) :
      t ∉ allTracks.filter fun t => (s.tracks.get t).state.alive := by simp [h]
  refine ⟨e.control, e.causes, e.timebase, e.faults, e.scanner, e.gangs, e.memory, e.entries_gone, ?_⟩
  refine ⟨fun t ht => e.ended t (mem_gone.mpr ht), fun t ht => (e.spared t (hspared ht)).1, fun l => ?lanes, ?_⟩
  case lanes =>
    have hl := e.lanes l
    cases ho : (s.lanes.get l).owner with
    | none => exact e.lane_kept fun t ht => by cases ho.symm.trans ht
    | some t =>
      cases ha : (s.tracks.get t).state.alive with
      | true => exact (e.lane_freed ho ha).trans (if_pos ha).symm
      | false =>
        refine (e.lane_kept fun x hx => ?_).trans (if_neg (by simp [ha])).symm
        cases ho.symm.trans hx
        exact ha
  rw [← stopping_windows s, ← stopping_listeners s]
  refine ⟨fun p ⟨t, ho, ht⟩ hw => e.window_closed ho ht hw, fun p hw => e.window_kept hw,
    fun p t ha ho ht => e.listener_disarmed ha ho ht, fun p hw => e.listener_kept hw, fun p => ?detectors, ?_⟩
  case detectors =>
    rw [e.detectors]
    exact stopping_reference s p
  refine ⟨fun t ht => e.purged t (mem_gone.mpr ht), fun t ht => (e.spared t (hspared ht)).2,
    fun q t hq ht => e.answered q t hq (mem_gone.mpr ht), fun hq => e.other fun q t hd => ?drain, ?summaries,
    queuesKept_stopping e.kept⟩
  case drain => cases hq.symm.trans hd
  case summaries =>
    have hsummaries := e.summaries
    simpa only [stopping_port, closingSummaries_stopping] using hsummaries

end Sys2Proof.Machine.TrackEndings
end

section
/-! SUPPORT. The class actions of a fault (R118 to R120). -/

namespace Sys2Proof.Machine.TrackEndings

open Sys2Proof.Machine.Laws

variable {s u : State}

/-! ## GANG -/

theorem gangScope_iff (b : LaneBank) (gangs : Table 6 LaneSet) (C : LaneSet) (t : TrackId) :
    gangScope b gangs C t = true ↔
      ∃ g l, gangs.get g &&& C ≠ 0 ∧ laneIn (gangs.get g) l = true ∧ (b.get l).owner = some t := by
  simp [gangScope, AppliedClass.mem_allGangs, mem_allLanes, LaneBank.owns]

/-- The tracks a GANG action names (R119). -/
def gangHits (s : State) (c : FaultContext) (t : TrackId) : Bool :=
  c.track == some t || gangScope s.lanes s.gangs c.lanes t

theorem gangHits_iff (s : State) (c : FaultContext) (t : TrackId) :
    gangHits s c t = true ↔ c.track = some t ∨
      ∃ g l, s.gangs.get g &&& c.lanes ≠ 0 ∧ laneIn (s.gangs.get g) l = true ∧ (s.lanes.get l).owner = some t := by
  simp [gangHits, gangScope_iff]

/-! ## DEVICE -/

/-- What the close-all request of a device halt leaves: the device HALTED, no window OPEN, no listener armed, and the
summaries of the windows it closed requested. -/
structure AllClosed (s w : State) : Prop where
  timebase : w.timebase = s.timebase
  tracks : w.tracks = s.tracks
  queue : w.queue = s.queue
  lanes : w.lanes = s.lanes
  gangs : w.gangs = s.gangs
  faults : w.faults = s.faults
  directives : w.directives = s.directives
  control : w.control = { s.control with device := .halted }
  memory : w.memory = s.memory
  captures : w.probes.captures = s.probes.captures
  port : w.port = { s.port with summaries := s.port.summaries ++ closingSummaries (fun _ => true) .deviceHalt s }
  windows : ∀ p, w.probes.windows.get p = closedWindow .deviceHalt s.timebase.count (s.probes.windows.get p)
  listeners : ∀ p, (w.probes.listeners.get p).armed = false

theorem closeAll_allClosed (s : State) : AllClosed s (closeAll (s.modControl fun k => { k with device := .halted })) := by
  obtain ⟨v, T, hv, heq, hwindows, hlisteners, hsummaries⟩ :=
    closeAll_spec (s.modControl fun k => { k with device := .halted })
  have hcaptures : v.probes.captures = s.probes.captures := by rw [hv.probes]; rfl
  rw [heq]
  exact
    { timebase := hv.timebase, tracks := hv.tracks, queue := hv.queue, lanes := hv.lanes, gangs := hv.gangs
      faults := hv.faults, directives := hv.directives, control := hv.control, memory := hv.memory
      captures := hcaptures, port := by rw [hv.port, hsummaries]; rfl
      windows := hwindows, listeners := hlisteners }

section
variable {w : State} {t : TrackId}

theorem AllClosed.not_open (h : AllClosed s w) (p : ProbeId) : (w.probes.windows.get p).state ≠ .isOpen := by
  rw [h.windows p]
  unfold closedWindow
  split
  · simp
  · assumption

theorem AllClosed.closingSummaries (h : AllClosed s w) (f : Window → Bool) (c : CloseCause) : closingSummaries f c w = [] :=
  List.filterMap_eq_nil_iff.mpr fun p _ => summaryAtClose_none (.inr (h.not_open p))

theorem AllClosed.entriesOf (h : AllClosed s w) (t : TrackId) : w.entriesOf t = s.entriesOf t := by
  unfold State.entriesOf
  rw [h.queue]

theorem AllClosed.handOf (h : AllClosed s w) (t : TrackId) : handOf w t = handOf s t := by
  unfold Machine.handOf
  rw [h.queue]

theorem AllClosed.trackEnded (h : AllClosed s w) (t : TrackId) : trackEnded t w = trackEnded t s :=
  trackEnded_congr (by rw [h.tracks]) (h.entriesOf t) (h.handOf t)

theorem AllClosed.purgedAndCut (h : AllClosed s w) (hp : PurgedAndCut t w u) : PurgedAndCut t s u :=
  purgedAndCut_congr (by rw [h.tracks]) (by rw [h.timebase]) (h.entriesOf t) (h.handOf t) (by rw [h.port]) hp

theorem AllClosed.kept (h : AllClosed s w) : QueuesKept s w :=
  Laws.QueuesKept.of h.captures (by rw [h.port]) fun r hr => by rw [h.port]; exact hr

end

/-- The summary write of what stands leaves every track's status write and its image. -/
theorem statusFormed_formSummary {t : TrackId} (h : StatusFormed t s) : StatusFormed t (formSummary s) :=
  StatusFormed.kept h rfl (by rw [formSummary_port]) fun _ => formSummary_status

theorem queuesKept_formSummary (s : State) : QueuesKept s (formSummary s) :=
  ⟨rfl, by rw [formSummary_port], by rw [formSummary_port], by rw [formSummary_port], by rw [formSummary_port],
    (formSummary_spec s).1⟩

/-- The halts of a device halt, before its attention and its summary (R120). -/
theorem deviceHalt_spec (kind : FaultKind) (s : State) :
    ∃ w v, AllClosed s w ∧ v = haltAll (fun _ => true) kind w ∧
      classAction .device kind c s = formSummary (withCause .deviceHalt v) :=
  ⟨_, _, closeAll_allClosed s, rfl, rfl⟩

variable {kind : FaultKind} {c : FaultContext}

/-- The tracks that a GANG action halts. -/
theorem classAction_gang (kind : FaultKind) (c : FaultContext) (s : State) :
    classAction .gang kind c s = haltAll (gangHits s c) kind s := rfl

/-- Settles O44: a GANG action ends the tracks it names; a DEVICE action closes all, ends all, and forms a summary. -/
theorem classActions : Obligations.ClassActions := by
  refine fun s kind c => ⟨rfl, fun t ht => ?track, ?gang, ?device⟩
  case track =>
    unfold classAction
    rw [ht]
  case gang =>
    rw [classAction_gang]
    have e := haltAll_endedAll (gangHits s c) kind s
    generalize haltAll (gangHits s c) kind s = u at e ⊢
    simp only [← gangHits_iff]
    have hgone {t : TrackId} (hit : gangHits s c t = true) (ha : (s.tracks.get t).state.alive = true) :
        (gangHits s c t && (s.tracks.get t).state.alive) = true := by rw [hit, ha]; rfl
    have hspared {t : TrackId} (h : ¬ gangHits s c t = true ∨ (s.tracks.get t).state.alive = false) :
        (gangHits s c t && (s.tracks.get t).state.alive) = false := by
      rcases h with h | h <;> simp [h]
    refine ⟨fun t hit ha => e.ended t (mem_gone.mpr (hgone hit ha)), fun t h => ?spared,
      fun l t ho hit ha => e.lane_freed ho (hgone hit ha), fun l ho => e.lane_kept fun t ht => hspared (ho t ht),
      ⟨_, fun t => by rw [Bool.and_eq_true], e.entries_gone, e.summaries⟩, e.kept, ?_⟩
    case spared =>
      have hmem : t ∉ allTracks.filter fun t => gangHits s c t && (s.tracks.get t).state.alive := by
        rw [mem_gone, hspared h]
        exact Bool.false_ne_true
      refine ⟨(e.spared t hmem).1, (e.spared t hmem).2, fun q hq => e.other fun q' x hx hmem' => hmem ?_⟩
      cases hq.symm.trans hx
      exact hmem'
    refine ⟨fun p t ho hit ha hw => e.window_closed ho (hgone hit ha) hw,
      fun p h => e.window_kept (h.imp_right fun ho t ht => hspared (ho t ht)),
      fun p t harm ho hit ha => e.listener_disarmed harm ho (hgone hit ha),
      fun p h => e.listener_kept (h.imp_right fun ho t ht => hspared (ho t ht)), ?_⟩
    exact ⟨fun t hit ha => e.raised t (mem_gone.mpr (hgone hit ha)) _ List.mem_cons_self,
      fun q t hq hit ha => e.answered q t hq (mem_gone.mpr (hgone hit ha)), e.control, e.causes, e.timebase, e.faults,
      e.gangs, e.memory, fun t hit ha => e.purged t (mem_gone.mpr (hgone hit ha))⟩
  case device =>
    obtain ⟨w, v, hw, hv, heq⟩ := deviceHalt_spec (c := c) kind s
    have e := haltAll_endedAll (fun _ => true) kind w
    rw [← hv] at e
    rw [heq]
    simp only [Bool.true_and, hw.tracks] at e
    have hspared {t : TrackId} (h : (s.tracks.get t).state.alive = false) :
        t ∉ allTracks.filter fun t => (s.tracks.get t).state.alive := by simp [h]
    have hdone {t : TrackId} (h : (s.tracks.get t).state.alive = true) :
        t ∈ allTracks.filter fun t => (s.tracks.get t).state.alive := mem_gone.mpr h
    have hport := formSummary_port (withCause .deviceHalt v)
    have hattends : ∀ k, v.attends k = true → (withCause .deviceHalt v).attends k = true := fun k =>
      withCause_keeps .deviceHalt k v
    obtain ⟨hresults, hsummary, hlast⟩ := formSummary_spec (withCause .deviceHalt v)
    refine ⟨?control, ?causes, ?timebase, ?faults, withCause_attends .deviceHalt v, fun t ha => ⟨?track, ?halt, ?status⟩,
      fun t ha => ⟨?spared, ?requests⟩, ?summaries, ?kept, fun p ho => ?closed, fun p ho => ?unclosed, fun p => ?listeners,
      ?entries, fun l t ho ha => ?freed, fun l ho => ?lanes, ?gangs, ?memory, fun t ha => ?purged, hlast, ?written,
      fun q t hq ha => ?answered⟩
    case control =>
      have hcontrol : v.control = { s.control with device := .halted, attention := v.control.attention } := by
        rw [e.control, hw.control]
      exact congrArg (fun k : Control => { k with attention := v.control.attention ||| Cause.deviceHalt.bit }) hcontrol
    case causes =>
      refine RaisesOnly.trans (RaisesOnly.trans (u := w) (Laws.RaisesOnly.of ?_) (RaisesOnly.mono e.causes (by decide)))
        (withCause_raises (by decide) v)
      rw [hw.control]
    case timebase => exact e.timebase.trans hw.timebase
    case faults => exact e.faults.trans hw.faults
    case track => exact (e.ended t (hdone ha)).1.trans (by rw [hw.trackEnded])
    case halt => exact hattends _ (e.raised t (hdone ha) _ List.mem_cons_self)
    case status => exact statusFormed_formSummary (e.ended t (hdone ha)).2
    case spared => exact (e.spared t (hspared ha)).1.trans (by rw [hw.tracks])
    case requests =>
      rw [hport]
      exact (e.spared t (hspared ha)).2.trans (by rw [hw.port])
    case summaries =>
      rw [hport]
      refine e.summaries.trans ?_
      simp [hw.closingSummaries, hw.port]
    case kept => exact QueuesKept.trans (QueuesKept.trans hw.kept e.kept) (queuesKept_formSummary (withCause .deviceHalt v))
    case closed =>
      refine (e.window_kept (.inl (hw.not_open p))).trans ((hw.windows p).trans ?_)
      exact if_pos ho
    case unclosed => exact (e.window_kept (.inl (hw.not_open p))).trans ((hw.windows p).trans (if_neg ho))
    case listeners =>
      show (v.probes.listeners.get p).armed = false
      rw [e.listener_kept (.inl (hw.listeners p))]
      exact hw.listeners p
    case entries =>
      refine e.entries_gone.trans ?_
      rw [hw.queue]
    case freed => exact (e.lane_freed (by rw [hw.lanes]; exact ho) ha).trans (by rw [hw.lanes]; rfl)
    case lanes => exact (e.lane_kept (by rw [hw.lanes]; exact ho)).trans (by rw [hw.lanes])
    case gangs => exact e.gangs.trans hw.gangs
    case memory => exact e.memory.trans hw.memory
    case purged =>
      obtain ⟨hreq, hret⟩ := hw.purgedAndCut (e.purged t (hdone ha))
      exact ⟨by rw [hport]; exact hreq, fun h => hattends _ (hret h)⟩
    case written =>
      obtain ⟨n, hn⟩ := hsummary
      have hcount : (withCause .deviceHalt v).timebase.count = s.timebase.count := by
        show v.timebase.count = _
        rw [e.timebase, hw.timebase]
      rw [hcount] at hn
      exact ⟨n, hn⟩
    case answered =>
      obtain ⟨hnone, hmem⟩ := e.answered q t (by rw [hw.directives]; exact hq) (hdone ha)
      rw [hw.timebase] at hmem
      exact ⟨hnone, hresults _ hmem⟩

end Sys2Proof.Machine.TrackEndings
end

section
/-! SUPPORT. The directive slot read (R138, R152, R153) and START_TRACK at its descriptor (R139, R155). -/

namespace Sys2Proof.Machine.DirectiveReads

open Sys2Proof.Machine.Laws Sys2Proof.Machine.Timebase

variable {s v : State} {a : Address} {d : DirectiveSlot} {n : Word16} {x y z : Word64}

/-! ## The slot read -/

theorem exec_slotRead (b : BitVec 256) :
    exec (.directiveSlotReadDone (.data b)) s = .next (slotCompletes (DirectiveSlot.ofRecord b) s) := rfl

theorem exec_slotRead_error (h : InFlightIs s (.scan .directiveSlot) a) :
    exec (.directiveSlotReadDone .error) s =
      .next (scanGoesOn (raiseFault .busRead ⟨none, 0, none, a, none, 0, s.timebase.count⟩ (released s))) := by
  have hexec : exec (.directiveSlotReadDone .error) s = .next (slotFails s) := rfl
  rw [hexec, slotFails, completeAccess_taken h rfl]
  rfl

/-- A slot that is not taken changes nothing, and the scan goes on (R138). -/
theorem slotCompletes_old (h : InFlightIs s (.scan .directiveSlot) a)
    (hold : d.sequence = 0 ∨ d.sequence = s.directives.lastSeen) : slotCompletes d s = scanGoesOn (released s) := by
  rw [slotCompletes_flight h, slotReadDone_old (s := released s) hold]

/-- A slot that is taken and reads no descriptor is executed (R138, R152). -/
theorem slotCompletes_executes (h : InFlightIs s (.scan .directiveSlot) a) (h0 : d.sequence ≠ 0)
    (h1 : d.sequence ≠ s.directives.lastSeen) (hk : d.kind.toNat ≠ 1 ∨ 8 ≤ d.arg1.toNat) :
    slotCompletes d s = scanGoesOn (executeDirective d (slotTakenState d.sequence s)) := by
  rw [slotCompletes_flight h, slotReadDone_executes h0 h1 hk]

/-- While a drain is in progress the slot is answered OVERLAP, but for an ABORT_TRACK of its track (R153). -/
theorem slotCompletes_overlap {r : Drain} (h : InFlightIs s (.scan .directiveSlot) a) (h0 : d.sequence ≠ 0)
    (h1 : d.sequence ≠ s.directives.lastSeen) (hk : d.kind.toNat ≠ 1 ∨ 8 ≤ d.arg1.toNat)
    (hdrain : s.directives.drain = some r) (hother : d.kind.toNat ≠ 3 ∨ d.arg1.toNat ≠ r.track.val) :
    slotCompletes d s =
      scanGoesOn (withResult d.sequence .overlap (r.sequence.setWidth 32) (slotTakenState d.sequence s)) := by
  rw [slotCompletes_executes h h0 h1 hk, executeDirective_overlap (s := slotTakenState d.sequence s) hdrain hother]

theorem slotCompletes_overlap_kind {r : Drain} {k : Byte} (h : InFlightIs s (.scan .directiveSlot) a) (h0 : n ≠ 0)
    (h1 : n ≠ s.directives.lastSeen) (hk : k.toNat ≠ 1 ∧ k.toNat ≠ 3) (hdrain : s.directives.drain = some r) :
    slotCompletes ⟨n, k, x, y, z⟩ s =
      scanGoesOn (withResult n .overlap (r.sequence.setWidth 32) (slotTakenState n s)) :=
  slotCompletes_overlap (d := ⟨n, k, x, y, z⟩) h h0 h1 (.inl hk.1) hdrain (.inl hk.2)

/-- Two slots with one number that are executed alike complete alike. -/
theorem slotCompletes_congr {e : DirectiveSlot} (h : InFlightIs s (.scan .directiveSlot) a)
    (hseq : d.sequence = e.sequence) (hd : d.kind.toNat ≠ 1) (he : e.kind.toNat ≠ 1)
    (hexec : ∀ u, executeDirective d u = executeDirective e u) : slotCompletes d s = slotCompletes e s := by
  by_cases hold : e.sequence = 0 ∨ e.sequence = s.directives.lastSeen
  · rw [slotCompletes_old h (hseq ▸ hold), slotCompletes_old h hold]
  · obtain ⟨h0, h1⟩ := not_or.mp hold
    rw [slotCompletes_executes h (hseq ▸ h0) (hseq ▸ h1) (.inl hd), slotCompletes_executes h h0 h1 (.inl he), hexec, hseq]

theorem slot_eq_of_kind {k : Byte} (h : d.kind.toNat = k.toNat) : d = ⟨d.sequence, k, d.arg1, d.arg2, d.arg3⟩ := by
  cases d
  simp only [DirectiveSlot.mk.injEq, true_and, and_true]
  exact BitVec.eq_of_toNat_eq h

/-- The slot read that brings a kind other than START_TRACK completes as the slot with that kind's arguments alone. -/
theorem slotCompletes_kind {k : Byte} {e : DirectiveSlot} (h : InFlightIs s (.scan .directiveSlot) a)
    (hk : d.kind.toNat = k.toNat) (hk1 : k.toNat ≠ 1) (hseq : e.sequence = d.sequence) (he : e.kind = k)
    (hexec : ∀ u, executeDirective ⟨d.sequence, k, d.arg1, d.arg2, d.arg3⟩ u = executeDirective e u) :
    slotCompletes d s = slotCompletes e s :=
  slotCompletes_congr h hseq.symm (by rw [hk]; exact hk1) (by rw [he]; exact hk1) fun u => by
    rw [slot_eq_of_kind hk]
    exact hexec u

theorem executeDirective_badIndex (hk : d.kind.toNat = 1) (hx : overlapping d s = none) :
    executeDirective d s = withResult d.sequence .refusedArgument 1 s := by
  unfold executeDirective
  simp only [hx, hk]
  rfl

theorem executeDirective_unknown (hk : d.kind.toNat = 0 ∨ 10 < d.kind.toNat) (hx : overlapping d s = none) :
    executeDirective d s = withResult d.sequence .unknownKind (d.kind.setWidth 32) s := by
  have hdetail : BitVec.ofNat 32 d.kind.toNat = d.kind.setWidth 32 := by
    apply BitVec.eq_of_toNat_eq
    simp
  rw [← hdetail]
  unfold executeDirective
  rcases hk with hk | hk
  · simp only [hx, hk]
    rfl
  · obtain ⟨k, hk⟩ := Nat.exists_eq_add_of_le' hk
    simp only [hx, hk]
    rfl

/-- Settles O56: the slot is old, or reads its descriptor, or is executed; the nine rows are the read with their kind. -/
theorem slotReads : Obligations.SlotReads := by
  intro s a h
  refine ⟨exec_slotRead_error h, fun b => ?read, fun n x y z r h0 h1 hr => ⟨fun c hc => ?overlap, fun hx => ?abort⟩⟩
  case read =>
    intro d u
    have hread : exec (.directiveSlotReadDone (.data b)) s = .next (slotCompletes d s) := rfl
    rw [hread]
    refine ⟨fun hold => ?old, fun h0 h1 => ⟨fun t hk ht => ?start, fun r hr hk => ?overlapping,
      fun hn => ⟨fun hk hx => ?index, fun hk => ?unknown⟩⟩, fun hk => ?drain, fun hk => ?abortTrack, fun hk => ?clear,
      fun hk => ?gang, fun hk => ?lane, fun hk => ?policy, fun hk => ?ack, fun hk => ?load, fun hk => ?frame⟩
    case old => rw [slotCompletes_old h hold]
    case start =>
      rw [slotCompletes_flight h, slotReadDone_start h0 h1 hk ht]
      rfl
    case overlapping => rw [slotCompletes_overlap h h0 h1 (by omega) hr (by omega)]
    case index => rw [slotCompletes_executes h h0 h1 (.inr hx), executeDirective_badIndex (s := u) hk (overlapping_none hn)]
    case unknown => rw [slotCompletes_executes h h0 h1 (by omega), executeDirective_unknown (s := u) hk (overlapping_none hn)]
    case drain => exact congrArg _ (slotCompletes_kind (k := 2) h hk (by decide) rfl rfl fun u => rfl)
    case abortTrack => exact congrArg _ (slotCompletes_kind (k := 3) h hk (by decide) rfl rfl fun u => rfl)
    case clear => exact congrArg _ (slotCompletes_kind (k := 4) h hk (by decide) rfl rfl fun u => rfl)
    case gang => exact congrArg _ (slotCompletes_kind (k := 5) h hk (by decide) rfl rfl fun u => rfl)
    case lane => exact congrArg _ (slotCompletes_kind (k := 6) h hk (by decide) rfl rfl fun u => rfl)
    case policy => exact congrArg _ (slotCompletes_kind (k := 7) h hk (by decide) rfl rfl fun u => rfl)
    case ack => exact congrArg _ (slotCompletes_kind (k := 8) h hk (by decide) rfl rfl fun u => rfl)
    case load => exact congrArg _ (slotCompletes_kind (k := 9) h hk (by decide) rfl rfl fun u => rfl)
    case frame => exact congrArg _ (slotCompletes_kind (k := 10) h hk (by decide) rfl rfl fun u => rfl)
  case overlap =>
    simp only [List.mem_cons, List.not_mem_nil, or_false] at hc
    rcases hc with rfl | rfl | rfl | rfl | rfl | rfl | rfl | rfl
    all_goals exact congrArg _ (slotCompletes_overlap_kind h h0 h1 (by decide) hr)
  case abort =>
    exact congrArg _ (slotCompletes_overlap (d := ⟨n, 3, x, 0, 0⟩) h h0 h1
      (.inl (by decide : (3 : Byte).toNat ≠ 1)) hr (.inr hx))

end Sys2Proof.Machine.DirectiveReads
end

section
/-! SUPPORT. START_TRACK at its descriptor (R139, R155), and the three directives of a running track (R156, R158, R159). -/

namespace Sys2Proof.Machine.TrackDirectives

open Sys2Proof.Machine.Laws Sys2Proof.Machine.Timebase Sys2Proof.Machine.DirectiveReads

variable {s u v : State} {a : Address} {d : DirectiveSlot} {n q : Word16} {x : Word64} {t : TrackId}

/-- An outcome that is not taken is on its way. -/
theorem onItsWay_of_not_taken {o : AwaitOutcome} (h : ∀ a, o ≠ .taken a) : o.onItsWay = true := by
  cases o with
  | edge _ => rfl
  | timeoutSkip => rfl
  | timeoutFault _ => rfl
  | taken a => exact absurd rfl (h a)

/-! ## START_TRACK -/

/-- What the completion of a descriptor read does besides the START_TRACK itself: BUS_READ for one that failed (R145). -/
def descriptorFault {w : Nat} (a : Address) (r : ReadResult w) (s : State) : State :=
  match r with
  | .data _ => s
  | .error => raiseFault .busRead ⟨none, 0, none, a, none, 0, s.timebase.count⟩ s

theorem exec_startTrack (h : InFlightIs s (.scan (.descriptor t q)) a) (r : ReadResult 128) :
    exec (.startTrack r) s = .next (scanGoesOn (descriptorFault a r (executeStart t q r (released s)))) := by
  have hexec : exec (.startTrack r) s = execStartTrack r s := rfl
  rw [hexec, execStartTrack, completeAccess_taken h rfl]
  cases r <;> rfl

theorem executeStart_deviceState (h : s.directives.drain = none) (hd : s.control.device ≠ .running) (b : BitVec 128) :
    executeStart t q (.data b) s = withResult q .refusedDeviceState (BitVec.ofNat 32 s.control.device.code) s := by
  unfold executeStart
  rw [h]
  exact if_pos hd

theorem executeStart_checked (h : s.directives.drain = none) (hd : s.control.device = .running) (b : BitVec 128) :
    executeStart t q (.data b) s = startChecked t q (Descriptor.ofRecord b) s := by
  unfold executeStart
  rw [h]
  exact if_neg (not_not_intro hd)

theorem startChecked_trackState {e : Descriptor} (h : returnFirst t s = u) (hs : (u.tracks.get t).state ≠ .off) :
    startChecked t q e s = withResult q .refusedTrackState (BitVec.ofNat 32 (u.tracks.get t).state.code) u := by
  unfold startChecked
  rw [h]
  exact if_pos hs

section
variable {e : Descriptor} (hs : (s.tracks.get t).state = .off)
include hs

theorem returnFirst_off : returnFirst t s = s := returnFirst_none (.inl (by simp [hs]))

theorem startChecked_quota (hq : e.quota = 0 ∨ quotaRoom s < e.quota) :
    startChecked t q e s = withResult q .refusedQuota (BitVec.ofNat 32 (quotaRoom s)) s := by
  unfold startChecked
  rw [returnFirst_off hs]
  exact (if_neg (not_not_intro hs)).trans (if_pos hq)

theorem startChecked_head (hq : ¬(e.quota = 0 ∨ quotaRoom s < e.quota)) (hh : e.head = 0 ∨ e.head.toNat % 64 ≠ 0) :
    startChecked t q e s = withResult q .refusedArgument 2 s := by
  unfold startChecked
  rw [returnFirst_off hs]
  exact (if_neg (not_not_intro hs)).trans ((if_neg hq).trans (if_pos hh))

theorem startChecked_starts (hq : ¬(e.quota = 0 ∨ quotaRoom s < e.quota)) (hh : ¬(e.head = 0 ∨ e.head.toNat % 64 ≠ 0)) :
    startChecked t q e s =
      withResult q .done (BitVec.ofNat 32 (quotaRoom (startEffect t e s))) (startEffect t e s) := by
  unfold startChecked
  rw [returnFirst_off hs]
  exact (if_neg (not_not_intro hs)).trans ((if_neg hq).trans (if_neg hh))

end

/-- Settles O60: an OVERLAP, or the checks in their order, or the start. -/
theorem startTrackExecuted : Obligations.StartTrackExecuted := by
  intro s t q a h u k c room answered
  refine ⟨fun r hr => ⟨fun b => ?overlap, ?overlapError⟩, fun hn => ⟨?failed, fun b => ?data⟩⟩
  case overlap =>
    rw [exec_startTrack h, PortRecords.executeStart_overlap t q _ (s := released s) hr]
    rfl
  case overlapError =>
    rw [exec_startTrack h, PortRecords.executeStart_overlap t q _ (s := released s) hr]
    rfl
  case failed =>
    rw [exec_startTrack h, PortRecords.executeStart_error t q (s := released s) hn]
    rfl
  case data =>
    intro d
    rw [exec_startTrack h]
    have hchecked (hd : s.control.device = .running) :
        executeStart t q (.data b) (released s) = startChecked t q d (released s) :=
      executeStart_checked (s := released s) hn hd b
    refine ⟨fun hd => ?device, fun hd hs hret => ?trackState, fun o hd hs ho hway => ?returned, fun hd hs =>
      ⟨fun hq => ?quota, fun hq0 hq => ⟨fun hh => ?head, fun hh0 hh => ?starts⟩⟩⟩
    case device =>
      rw [executeStart_deviceState (s := released s) hn hd]
      rfl
    case trackState =>
      rw [hchecked hd, startChecked_trackState (s := u) (u := u) (returnFirst_none (s := u) hret) hs]
      rfl
    case returned =>
      have hway := onItsWay_of_not_taken hway
      have hactive : ((returnFirst t u).tracks.get t).state = .active := returnFirst_active (s := u) ho hway hs
      rw [hchecked hd, startChecked_trackState rfl (by rw [hactive]; decide), hactive, returnFirst_returns (s := u) ho hway hs]
      rfl
    case quota =>
      rw [hchecked hd, startChecked_quota (s := u) hs hq]
      rfl
    case head =>
      rw [hchecked hd, startChecked_head (s := u) hs (by rintro (h | h); exacts [hq0 h, absurd h (Nat.not_lt.mpr hq)]) hh]
      rfl
    case starts =>
      rw [hchecked hd, startChecked_starts (s := u) hs (by rintro (h | h); exacts [hq0 h, absurd h (Nat.not_lt.mpr hq)])
        (by rintro (h | h); exacts [hh0 h, h hh])]
      rfl

end Sys2Proof.Machine.TrackDirectives
end

section
/-! SUPPORT. DRAIN_TRACK, ABORT_TRACK and CLEAR_TRACK (R156, R158, R159), and the end of a drain (R37). -/

namespace Sys2Proof.Machine.TrackDirectives

open Sys2Proof.Machine.Laws Sys2Proof.Machine.Timebase Sys2Proof.Machine.DirectiveReads Sys2Proof.Machine.TrackEndings

variable {s u v : State} {a : Address} {d : DirectiveSlot} {n q : Word16} {x : Word64} {t : TrackId}

/-! ## From the slot read to the directive (R138) -/

theorem executeDirective_drain (hk : d.kind = 2) (h : overlapping d s = none) :
    executeDirective d s = directiveDrain d s := by
  unfold executeDirective
  rw [h, hk]
  rfl

theorem executeDirective_abort (hk : d.kind = 3) (h : overlapping d s = none) :
    executeDirective d s = directiveAbort d s := by
  unfold executeDirective
  rw [h, hk]
  rfl

theorem executeDirective_clear (hk : d.kind = 4) (h : overlapping d s = none) :
    executeDirective d s = directiveClear d s := by
  unfold executeDirective
  rw [h, hk]
  rfl

theorem exec_drainTrack (h : SlotTakes s n) : exec (.drainTrack n x) s =
    .next (scanGoesOn (directiveDrain ⟨n, 2, x, 0, 0⟩ (slotTakenState n s))) := by
  have hslot := slotCompletes_of_takes (d := ⟨n, 2, x, 0, 0⟩) h (by decide : (2 : Byte).toNat ≠ 1)
  rw [executeDirective_drain rfl (overlapping_of_takes h)] at hslot
  exact congrArg _ hslot

theorem exec_clearTrack (h : SlotTakes s n) : exec (.clearTrack n x) s =
    .next (scanGoesOn (directiveClear ⟨n, 4, x, 0, 0⟩ (slotTakenState n s))) := by
  have hslot := slotCompletes_of_takes (d := ⟨n, 4, x, 0, 0⟩) h (by decide : (4 : Byte).toNat ≠ 1)
  rw [executeDirective_clear rfl (overlapping_of_takes h)] at hslot
  exact congrArg _ hslot

/-- An ABORT_TRACK is executed where no drain, or the drain of its own track, is in progress (R153). -/
theorem exec_abortTrack (h : InFlightIs s (.scan .directiveSlot) a) (h0 : n ≠ 0) (h1 : n ≠ s.directives.lastSeen)
    (ho : overlapping ⟨n, 3, x, 0, 0⟩ (slotTakenState n s) = none) : exec (.abortTrack n x) s =
      .next (scanGoesOn (directiveAbort ⟨n, 3, x, 0, 0⟩ (slotTakenState n s))) := by
  have hslot := slotCompletes_executes (d := ⟨n, 3, x, 0, 0⟩) h h0 h1 (.inl (by decide : (3 : Byte).toNat ≠ 1))
  rw [executeDirective_abort rfl ho] at hslot
  exact congrArg _ hslot

/-! ## The checks of DRAIN_TRACK and ABORT_TRACK in order (R152) -/

section
variable {admits : TrackState → Bool} {effect : TrackId → State → State}

theorem onRunningTrack_argument (h : 8 ≤ d.arg1.toNat) :
    onRunningTrack d admits effect s = answer d .refusedArgument 1 s := by
  unfold onRunningTrack
  rw [indexIn_none h]

theorem onRunningTrack_deviceState (h : d.arg1.toNat = t.val) (hd : s.control.device ≠ .running) :
    onRunningTrack d admits effect s = answer d .refusedDeviceState s.control.device.code s := by
  unfold onRunningTrack
  rw [indexIn_some h]
  exact if_pos hd

theorem onRunningTrack_trackState (h : d.arg1.toNat = t.val) (hd : s.control.device = .running)
    (ha : admits (s.tracks.get t).state = false) :
    onRunningTrack d admits effect s = answer d .refusedTrackState (s.tracks.get t).state.code s := by
  unfold onRunningTrack
  rw [indexIn_some h]
  exact (if_neg (not_not_intro hd)).trans (if_pos ha)

theorem onRunningTrack_effect (h : d.arg1.toNat = t.val) (hd : s.control.device = .running)
    (ha : admits (s.tracks.get t).state = true) : onRunningTrack d admits effect s = effect t s := by
  unfold onRunningTrack
  rw [indexIn_some h]
  exact (if_neg (not_not_intro hd)).trans (if_neg (by simp [ha]))

end

theorem abortEffect_eq (n : Word16) (x : Word64) (t : TrackId) (s : State) :
    abortEffect ⟨n, 3, x, 0, 0⟩ t s =
      withResult n .done (BitVec.ofNat 32 (s.entriesOf t).length) (abortTrack t .trackEnd (n.setWidth 32) s) := by
  unfold abortEffect
  exact answer_eq

theorem entriesOf_slotTaken (n : Word16) (t : TrackId) (s : State) :
    (slotTakenState n s).entriesOf t = s.queue.entries.filter fun e => e.track == t := rfl

/-- An abort is answered with the number of the entries it purges (R158). -/
theorem directiveAbort_effect (h : x.toNat = t.val) (hd : s.control.device = .running)
    (ha : (s.tracks.get t).state.alive = true) :
    directiveAbort ⟨n, 3, x, 0, 0⟩ (slotTakenState n s) =
      withResult n .done (BitVec.ofNat 32 (s.queue.entries.filter fun e => e.track == t).length)
        (abortTrack t .trackEnd (n.setWidth 32) (slotTakenState n s)) := by
  rw [directiveAbort, onRunningTrack_effect (s := slotTakenState n s) h hd ha, abortEffect_eq, entriesOf_slotTaken]

/-! ## CLEAR_TRACK (R41, R159) -/

theorem directiveClear_argument (h : 8 ≤ d.arg1.toNat) : directiveClear d s = answer d .refusedArgument 1 s := by
  unfold directiveClear
  rw [indexIn_none h]

theorem directiveClear_trackState (h : d.arg1.toNat = t.val) (hr : returnFirst t s = u)
    (hs : (u.tracks.get t).state ≠ .halted) :
    directiveClear d s = answer d .refusedTrackState (u.tracks.get t).state.code u := by
  unfold directiveClear
  rw [indexIn_some h]
  simp only [hr, if_pos hs]

theorem directiveClear_done {kind : FaultKind} (h : d.arg1.toNat = t.val) (hs : (s.tracks.get t).state = .halted)
    (hk : (s.tracks.get t).haltKind = some kind) :
    directiveClear d s = answer d .done kind.code.val (formStatus t (withTrack t
      { s.tracks.get t with
        state := .off, haltKind := none, rejectedLink := none
        stallQuota := false, stallSegments := false, stallPort := false } s)) := by
  have hr : returnFirst t s = s := returnFirst_none (.inl (by simp [hs]))
  unfold directiveClear
  rw [indexIn_some h]
  simp only [hr, hs, ne_eq, not_true_eq_false, if_false]
  rw [setTrackState_eq, enter_other _ (by decide), modTrack_eq, withTrack_withTrack, withTrack_get_self, hk]
  rfl

/-! ## DRAIN_TRACK (R36, R37) -/

/-- The track that drains is CLOSING and its listener disarmed (R36). -/
theorem disarmOf_closing (t : TrackId) (s : State) :
    disarmOf t (setTrackState t .closing (stopFetch t s)) =
      withTrack t
        { s.tracks.get t with
          state := .closing, stallQuota := false, stallSegments := false, stallPort := false, pendingLink := none
          readGeneration := (s.tracks.get t).readGeneration + 1
          outcome := none
          anchor := (s.tracks.get t).disarmedAnchor }
        { s with
          probes := { s.probes with
            listeners := Table.tab fun p =>
              if (s.probes.listeners.get p).armed = true ∧ (s.probes.listeners.get p).owner = some t then
                (s.probes.listeners.get p).disarm
              else s.probes.listeners.get p } } := by
  rw [setTrackState_eq, enter_other _ (by decide)]
  unfold stopFetch
  rw [modTrack_eq, withTrack_withTrack, withTrack_get_self]
  rfl

/-- The state an accepted drain leaves, before it ends at once or waits for its notices (R36). -/
def draining (n : Word16) (t : TrackId) (s : State) : State :=
  { formStatus t (disarmOf t (setTrackState t .closing (stopFetch t s))) with
    directives := { s.directives with drain := some ⟨n, t⟩ } }

theorem drainEffect_eq (n : Word16) (t : TrackId) (s : State) :
    drainEffect n t s =
      if (s.tracks.get t).queued = 0 then endDrain t (draining n t s) else draining n t s := by
  have hqueued : ((draining n t s).tracks.get t).queued = (s.tracks.get t).queued := by
    unfold draining
    rw [disarmOf_closing]
    show ((withTrack t _ _).tracks.get t).queued = _
    rw [withTrack_get_self]
  rw [← hqueued]
  rfl

theorem closingSummaries_congr (f : Window → Bool) (c : CloseCause) (ht : u.timebase = s.timebase)
    (hw : u.probes = s.probes) : closingSummaries f c u = closingSummaries f c s := by
  unfold closingSummaries
  exact List.filterMap_congr fun p _ => summaryAtClose_congr (by rw [ht]) (by rw [hw]) rfl

/-- The end of a drain: its records are cut, its windows closed, its lanes freed, its status formed and its result with the
number of records cut is written (R37, R157). -/
theorem endDrain_spec (hdrain : v.directives.drain = some ⟨n, t⟩) (hlink : (v.tracks.get t).pendingLink = none) :
    let z := endDrain t v
    CutsRequested t v z ∧ z.directives.drain = none ∧
    z.port.out.getLast? =
      some (.result ⟨n, .done, BitVec.ofNat 32 (v.tracks.get t).openList.length, v.timebase.count⟩) ∧
    z.tracks.get t =
      { v.tracks.get t with
        state := .off, openList := [], stallQuota := false, stallSegments := false, stallPort := false } ∧
    StatusFormed t z ∧ RaisesOnly [.retired] v z ∧ z.control = { v.control with attention := z.control.attention } ∧
    (∀ l, z.lanes.get l =
      if (v.lanes.get l).owner = some t then
        { v.lanes.get l with owner := none, level := (v.lanes.get l).safe, returnEdge := none }
      else v.lanes.get l) ∧
    (∀ p, z.probes.windows.get p =
      if (v.probes.windows.get p).owner = some t ∧ (v.probes.windows.get p).state = .isOpen then
        { v.probes.windows.get p with state := .closing, cause := some .trackEnd, closeTime := v.timebase.count }
      else v.probes.windows.get p) ∧
    z.port.summaries = v.port.summaries ++ closingSummaries (ownedBy t) .trackEnd v ∧
    (∀ x, x ≠ t → z.port.tracks.get x = v.port.tracks.get x) ∧ QueuesKept v z ∧
    z.queue = v.queue ∧ z.faults = v.faults ∧ z.timebase = v.timebase := by
  unfold endDrain
  obtain ⟨hcut, hopen⟩ := cutSegments_spec hlink
  generalize cutSegments t v = c at hcut hopen ⊢
  obtain ⟨⟨hclosing, hwindows⟩, hsummaries⟩ := closeWindowsOf_spec t .trackEnd c
  generalize closeWindowsOf t .trackEnd c = y at hclosing hwindows hsummaries ⊢
  obtain ⟨B, hrelease, hlanes⟩ := releaseLanes_spec t y
  simp only
  rw [hrelease, setTrackState_eq, enter_other _ (by decide)]
  have hyTracks : y.tracks = c.tracks := hclosing.tracks
  obtain ⟨P, D, heq, hP, hresults, hstatus, -, hanswered, -⟩ := answerDrain_formStatus t .done
    (BitVec.ofNat 32 (v.tracks.get t).openList.length) (withTrack t
      { y.tracks.get t with state := .off, stallQuota := false, stallSegments := false, stallPort := false }
      { y with lanes := B })
  rw [heq]
  have hyDirectives : y.directives = v.directives := hclosing.directives.trans hcut.directives
  have hyTimebase : y.timebase = v.timebase := hclosing.timebase.trans hcut.outside.timebase
  have hyTrack : y.tracks.get t = { v.tracks.get t with openList := [] } := by
    rw [hyTracks, ← hopen, hcut.track]
  have hyPort : y.port = { v.port with summaries := y.port.summaries, tracks := c.port.tracks } := by
    rw [hclosing.port, hcut.port]
  have hPtracks : P.tracks = c.port.tracks := by
    rw [hP]
    show y.port.tracks = _
    rw [hyPort]
  obtain ⟨hnone, hlast⟩ := hanswered n (by rw [← hdrain, ← hyDirectives]; rfl)
  refine ⟨?cuts, hnone, ?last, ?track, hstatus, ?causes, ?control, ?lanes, ?windows, ?summaries, fun x hx => ?requests,
    ?kept, ?queue, ?faults, hyTimebase⟩
  case cuts =>
    unfold CutsRequested
    show P.tracks.get t = _
    rw [hPtracks]
    exact hcut.requests
  case last => rw [← hyTimebase]; exact hlast
  case track =>
    refine (withTrack_get_self _ _ _).trans ?_
    rw [hyTrack]
  case causes => exact RaisesOnly.trans hcut.outside.causes (Laws.RaisesOnly.of (by rw [← hclosing.control]; rfl))
  case control =>
    show y.control = { v.control with attention := y.control.attention }
    rw [hclosing.control]
    exact hcut.outside.control
  case lanes =>
    intro l
    refine (hlanes l).trans ?_
    rw [hclosing.lanes, hcut.lanes]
  case windows =>
    intro p
    refine (hwindows p).trans ?_
    rw [hcut.probes, hcut.outside.timebase]
  case summaries =>
    show P.summaries = _
    rw [hP]
    refine hsummaries.trans ?_
    rw [closingSummaries_congr _ _ hcut.outside.timebase hcut.probes, hcut.port]
  case requests =>
    show P.tracks.get x = _
    rw [hPtracks]
    exact hcut.outside.requests x hx
  case kept =>
    refine Laws.QueuesKept.of ?_ ?_ fun r hr => hresults r ?_
    · show y.probes.captures = _
      rw [hclosing.probes, hcut.probes]
    · have hPy : P = { y.port with out := P.out, lastStatus := P.lastStatus } := hP
      show P = { v.port with summaries := P.summaries, tracks := P.tracks, out := P.out, lastStatus := P.lastStatus }
      rw [hPy, hyPort]
    · show _ ∈ y.port.out
      rw [hyPort]
      exact hr
  case queue => exact hclosing.queue.trans hcut.queue
  case faults => exact hclosing.faults.trans hcut.outside.faults

/-- Settles O59: the checks of each directive in their order, its effect, and the end of a drain. -/
theorem trackDirectives : Obligations.TrackDirectives := by
  refine ⟨fun s n htakes => ?_, fun s a n q t x h h0 h1 hdrain hx => ?ownDrain⟩
  case ownDrain =>
    intro u answered
    have hexec := exec_abortTrack (x := x) h h0 h1 (overlapping_abort (d := ⟨n, 3, x, 0, 0⟩) hdrain rfl hx)
    rw [hexec]
    refine ⟨fun hd => ?device, fun hd ha => ?state, fun hd ha => ?_⟩
    case device => rw [directiveAbort, onRunningTrack_deviceState (s := u) hx hd]; rfl
    case state => rw [directiveAbort, onRunningTrack_trackState (s := u) hx hd ha]; rfl
    have e := abortTrack_endOf t .trackEnd (n.setWidth 32) u
    obtain ⟨hnone, hlast⟩ := e.answered q hdrain
    refine ⟨?_, hnone, hlast, e.track, e.status, e.stripped, e.purged⟩
    rw [directiveAbort_effect hx hd ha]
  intro u answered
  obtain ⟨⟨a, h⟩, h0, h1, hnone⟩ := id htakes
  have habort (x : Word64) := exec_abortTrack (x := x) h h0 h1 (overlapping_none hnone)
  refine ⟨fun x hx c hc => ?argument, fun t x hx => ?_, fun t v hdrain hlink => endDrain_spec hdrain hlink⟩
  case argument =>
    simp only [List.mem_cons, List.not_mem_nil, or_false] at hc
    rcases hc with rfl | rfl | rfl
    · rw [exec_drainTrack htakes, directiveDrain, onRunningTrack_argument hx]; rfl
    · rw [habort x, directiveAbort, onRunningTrack_argument hx]; rfl
    · rw [exec_clearTrack htakes, directiveClear_argument hx]; rfl
  intro k
  refine ⟨fun hd c hc => ?device, fun hs hret => ?clearState, fun o hs ho hway => ?clearReturned,
    fun kind hs hk => ?clearDone, fun hd => ⟨fun hs => ?abortState, fun hs => ?drainState, fun ha => ?abort, fun hs => ?_⟩⟩
  case device =>
    simp only [List.mem_cons, List.not_mem_nil, or_false] at hc
    rcases hc with rfl | rfl
    · rw [exec_drainTrack htakes, directiveDrain, onRunningTrack_deviceState (s := u) hx hd]; rfl
    · rw [habort x, directiveAbort, onRunningTrack_deviceState (s := u) hx hd]; rfl
  case clearState =>
    rw [exec_clearTrack htakes, directiveClear_trackState (s := u) (u := u) hx (returnFirst_none (s := u) hret) hs]
    rfl
  case clearReturned =>
    have hway := onItsWay_of_not_taken hway
    have hactive : ((returnFirst t u).tracks.get t).state = .active := returnFirst_active (s := u) ho hway hs
    rw [exec_clearTrack htakes, directiveClear_trackState hx rfl (by rw [hactive]; decide), hactive,
      returnFirst_returns (s := u) ho hway hs]
    rfl
  case clearDone => rw [exec_clearTrack htakes, directiveClear_done (s := u) hx hs hk]; rfl
  case abortState =>
    have hdead : ((u.tracks.get t).state).alive = false := by
      rcases hs with hs | hs <;> exact congrArg TrackState.alive hs
    rw [habort x, directiveAbort, onRunningTrack_trackState (s := u) hx hd hdead]
    rfl
  case drainState =>
    have hdrains : ((u.tracks.get t).state).drains = false := by
      rcases hs with hs | hs | hs <;> exact congrArg TrackState.drains hs
    rw [exec_drainTrack htakes, directiveDrain, onRunningTrack_trackState (s := u) hx hd hdrains]
    rfl
  case abort =>
    rw [habort x, directiveAbort_effect hx hd ha]
  intro v w
  have hdrains : ((u.tracks.get t).state).drains = true := by
    rcases hs with hs | hs | hs <;> exact congrArg TrackState.drains hs
  have hw : draining n t u = w := by
    unfold draining
    rw [disarmOf_closing]
    rfl
  rw [exec_drainTrack htakes, directiveDrain, onRunningTrack_effect (s := u) hx hd hdrains, drainEffect_eq, hw]
  exact ⟨fun hq => congrArg (fun y => Host.Outcome.next (scanGoesOn y)) (if_neg hq),
    fun hq => congrArg (fun y => Host.Outcome.next (scanGoesOn y)) (if_pos hq)⟩

end Sys2Proof.Machine.TrackDirectives
end

section
/-! SUPPORT. RUN and the scanner (R172 to R174, R134 to R137). -/

namespace Sys2Proof.Machine.Scanner

open Sys2Proof.Machine.Laws

variable {s u : State} {n : Nat} {held : BitVec 32}

/-! ## The lowest of a list -/

/-- In an ascending list the search finds the least element that meets the test. -/
theorem find?_least {α : Type} [LinearOrder α] {L : List α} {p : α → Bool} {a : α} (hL : L.Pairwise (· < ·)) (ha : a ∈ L)
    (hp : p a = true) (hleast : ∀ b, b < a → p b = false) : L.find? p = some a := by
  induction L with
  | nil => exact absurd ha List.not_mem_nil
  | cons b L ih =>
    rw [List.pairwise_cons] at hL
    rcases List.mem_cons.mp ha with rfl | ha
    · exact List.find?_cons_of_pos hp
    · rw [List.find?_cons_of_neg (by simp [hleast b (hL.1 a ha)])]
      exact ih hL.2 ha

theorem allTracks_ascending : allTracks.Pairwise (· < ·) := by decide

theorem mem_allTracks (t : TrackId) : t ∈ allTracks := by revert t; decide

theorem allSlots_ascending : allSlots.Pairwise (· < ·) := by decide

theorem mem_allSlots (i : SlotId) : i ∈ allSlots := by revert i; decide

/-! ## The reads of a scan, in their order (R137) -/

theorem nextLinkRead_parked (held : BitVec 32) {t : TrackId} (ht : n ≤ t.val) (hs : (s.tracks.get t).state = .parked)
    (hleast : ∀ x : TrackId, n ≤ x.val → x < t → (s.tracks.get x).state ≠ .parked) :
    nextLinkRead held n s = some (.link t (s.tracks.get t).segment) := by
  unfold nextLinkRead
  rw [find?_least allTracks_ascending (mem_allTracks t) (by simp [ht, hs]) fun x hx => ?_]
  by_cases hn : n ≤ x.val
  · simp [hleast x hn hx]
  · simp [hn]

theorem nextLinkRead_none (held : BitVec 32) (h : ∀ t : TrackId, n ≤ t.val → (s.tracks.get t).state ≠ .parked) :
    nextLinkRead held n s = nextFlagRead held 0 := by
  unfold nextLinkRead
  rw [List.find?_eq_none.mpr fun t _ => ?_]
  simpa using h t

theorem nextFlagRead_held {i : SlotId} (hi : n ≤ i.val) (hh : held.getLsbD i.val = true)
    (hleast : ∀ x : SlotId, n ≤ x.val → x < i → held.getLsbD x.val = false) :
    nextFlagRead held n = some (.heldFlag i) := by
  unfold nextFlagRead
  rw [find?_least allSlots_ascending (mem_allSlots i) (by simp [hi, hh]) fun x hx => ?_]
  · rfl
  · by_cases hn : n ≤ x.val
    · rw [hleast x hn hx, Bool.and_false]
    · simp [hn]

theorem nextFlagRead_none (h : ∀ i : SlotId, n ≤ i.val → held.getLsbD i.val = false) : nextFlagRead held n = none := by
  unfold nextFlagRead
  rw [List.find?_eq_none.mpr fun i _ => ?_]
  · rfl
  · simpa using h i

theorem nextLinkRead_tracks (held : BitVec 32) (n : Nat) (h : u.tracks = s.tracks) :
    nextLinkRead held n u = nextLinkRead held n s := by
  unfold nextLinkRead
  rw [h]

/-! ## The start of a scan (R134, R135) -/

theorem firstScanRead_slot (held : BitVec 32) (h : resultOutstanding s = false) :
    firstScanRead held s = some .directiveSlot := by
  unfold firstScanRead
  rw [h]
  rfl

theorem firstScanRead_link (held : BitVec 32) (h : resultOutstanding s = true) :
    firstScanRead held s = nextLinkRead held 0 s := by
  unfold firstScanRead
  rw [h]
  rfl

theorem requestScanRead_eq (r : ScanRead) (s : State) :
    requestScanRead r s = { s with port := { s.port with scanRead := some r } } := rfl

theorem continueScan_read {next : BitVec 32 → State → Option ScanRead} {r : ScanRead} (h : s.scanner.scan = some held)
    (hr : next held s = some r) : continueScan next s = requestScanRead r s := by
  unfold continueScan
  simp only [h, hr]

theorem continueScan_ends {next : BitVec 32 → State → Option ScanRead} (h : s.scanner.scan = some held)
    (hr : next held s = none) : continueScan next s = endScan s := by
  unfold continueScan
  simp only [h, hr]

/-- Ending a scan forgets the slots it remembers, so it is the same for any of them. -/
theorem endScan_scan (s : State) (o : Option (BitVec 32)) :
    endScan { s with scanner := { s.scanner with scan := o } } = endScan s := by
  have hfinish : finishScan { s with scanner := { s.scanner with scan := o } } = finishScan s := congrArg formScanWrites rfl
  unfold endScan
  rw [hfinish]

theorem startScan_slot (h : resultOutstanding s = false) :
    startScan s = requestScanRead .directiveSlot { s with scanner := { s.scanner with scan := some (heldSlots s) } } := by
  unfold startScan
  simp only [firstScanRead_slot _ h]

/-- A scan whose slot is not read begins with its link phase, or ends at once (R137). -/
theorem startScan_link (h : resultOutstanding s = true) :
    startScan s = continueScan (fun h u => nextLinkRead h 0 u)
      { s with scanner := { s.scanner with scan := some (heldSlots s) } } := by
  unfold startScan
  simp only [firstScanRead_link _ h]
  cases hr : nextLinkRead (heldSlots s) 0 s with
  | some r => rw [continueScan_read rfl (r := r) hr]
  | none => exact ((continueScan_ends rfl hr).trans (endScan_scan s _)).symm

theorem triggers_no_anchor (h : s.control.anchor = 0) : scanTrigger s = s ∧ frameTrigger s = s :=
  ⟨if_pos h, if_pos h⟩

theorem triggers_in_progress (h : s.control.anchor ≠ 0) (hs : s.scanner.scan.isSome = true) :
    scanTrigger s = { s with scanner := { s.scanner with pending := true } } ∧
      frameTrigger s = { s with scanner := { s.scanner with skipped := s.scanner.skipped + 1 } } :=
  ⟨(if_neg h).trans (if_pos hs), (if_neg h).trans (if_pos hs)⟩

theorem triggers_start (h : s.control.anchor ≠ 0) (hs : s.scanner.scan = none) :
    scanTrigger s = startScan s ∧ frameTrigger s = startScan s :=
  ⟨(if_neg h).trans (if_neg (by simp [hs])), (if_neg h).trans (if_neg (by simp [hs]))⟩

theorem boundaryEvent_owed (h : s.timebase.boundary = true) :
    boundaryEvent s = frameTrigger { s with timebase := { s.timebase with boundary := false } } := if_pos h

theorem boundaryEvent_none (h : s.timebase.boundary = false) : boundaryEvent s = s := if_neg (by simp [h])

theorem exec_frameBoundary (s : State) : exec .frameBoundary s = .next (tickEvent boundaryEvent s) := rfl

/-- Settles O18: a trigger does nothing with ANCHOR 0, waits for a scan in progress, and else starts one. -/
theorem scanTriggers : Obligations.ScanTriggers := by
  intro s
  refine ⟨fun hhigh => controlWrite_high scanCommand hhigh, fun hc hb => ?owed, fun hc hb => ?none, triggers_no_anchor,
    triggers_in_progress, fun ha hs hr => ⟨heldSlots s, heldSlots_isHeldSet s, ?slot, ?same⟩,
    fun ha hs hr => ⟨heldSlots s, heldSlots_isHeldSet s, ?link, ?same'⟩, resultOutstanding_iff s⟩
  case owed => rw [exec_frameBoundary, tickEvent_counting _ hc, boundaryEvent_owed hb]
  case none => rw [exec_frameBoundary, tickEvent_counting _ hc, boundaryEvent_none hb]
  case slot => rw [(triggers_start ha hs).1, startScan_slot hr, requestScanRead_eq]
  case link => rw [(triggers_start ha hs).1, startScan_link hr]
  all_goals rw [(triggers_start ha hs).1, (triggers_start ha hs).2]

/-! ## The end of a scan (R136) -/

/-- What the end of a scan leaves of what the next one is started from. -/
theorem scanEnded_formed (s : State) :
    OutFormed { s with scanner := { s.scanner with scan := none } } (scanEnded s) := (scanEnded_spec s).1

theorem resultOutstanding_congr (ho : ∀ r, .result r ∈ u.port.out ↔ .result r ∈ s.port.out)
    (hf : u.port.inFlight = s.port.inFlight) : resultOutstanding u = resultOutstanding s := by
  rw [Bool.eq_iff_iff, resultOutstanding_iff, resultOutstanding_iff, hf]
  simp only [ho]

theorem endScan_alone (h : s.scanner.pending = false) : endScan s = scanEnded s := by
  have hp : (scanEnded s).scanner.pending = false := by rw [(scanEnded_formed s).scanner]; exact h
  unfold endScan
  rw [finishScan_eq]
  exact if_neg (by simp [hp])

/-- A scan's end with its pending trigger taken (R136). -/
def pendingTaken (s : State) : State :=
  { scanEnded s with scanner := { s.scanner with scan := none, pending := false } }

theorem endScan_pending (h : s.scanner.pending = true) :
    endScan s = if (pendingTaken s).control.anchor = 0 then pendingTaken s else beginScan (pendingTaken s) := by
  have hs : (scanEnded s).scanner = { s.scanner with scan := none } := (scanEnded_formed s).scanner
  have hp : (scanEnded s).scanner.pending = true := by rw [hs]; exact h
  unfold endScan
  rw [finishScan_eq]
  refine (if_pos hp).trans ?_
  simp only [hs]
  rfl

theorem beginScan_read {r : ScanRead} (h : firstScanRead (heldSlots s) s = some r) :
    beginScan s = requestScanRead r { s with scanner := { s.scanner with scan := some (heldSlots s) } } := by
  unfold beginScan
  simp only [h]

theorem beginScan_ends (h : firstScanRead (heldSlots s) s = none) : beginScan s = scanEnded s := by
  unfold beginScan
  simp only [h]
  exact finishScan_eq s

/-- A scan that ends right after another writes nothing more (R136). -/
theorem scanEnded_pendingTaken (s : State) : scanEnded (pendingTaken s) = pendingTaken s := by
  obtain ⟨hformed, hsummary, hstatus⟩ := scanEnded_spec s
  have himage : summaryImage (pendingTaken s) = summaryImage (scanEnded s) := by
    unfold summaryImage
    rw [hformed.scanner]
    rfl
  exact scanEnded_same (hsummary.trans (by rw [himage])) hstatus

/-- A walk over tracks that changes the state at one of them alone. -/
theorem foldl_once {f : State → TrackId → State} {L : List TrackId} {t : TrackId} (hL : L.Nodup) (ht : t ∈ L)
    (hother : ∀ u x, x ≠ t → f u x = u) (s : State) : L.foldl f s = f s t := by
  induction L generalizing s with
  | nil => exact absurd ht List.not_mem_nil
  | cons x L ih =>
    obtain ⟨hx, hL⟩ := List.nodup_cons.mp hL
    rw [List.foldl_cons]
    rcases List.mem_cons.mp ht with rfl | ht
    · exact foldl_same L fun y hy => hother _ y fun e => hx (e ▸ hy)
    · rw [hother s x fun e => hx (e ▸ ht)]
      exact ih hL ht s

theorem scanEnded_summary (hs : s.port.lastSummary ≠ some (summaryImage s))
    (ht : ∀ t, s.port.lastStatus.get t = some (statusImage (s.tracks.get t))) :
    scanEnded s = formSummary { s with scanner := { s.scanner with scan := none } } := by
  unfold scanEnded
  simp only [if_neg hs]
  exact foldl_same _ fun t _ => if_pos (ht t)

theorem scanEnded_status {t : TrackId} (hs : s.port.lastSummary = some (summaryImage s))
    (ht : s.port.lastStatus.get t ≠ some (statusImage (s.tracks.get t)))
    (hother : ∀ x, x ≠ t → s.port.lastStatus.get x = some (statusImage (s.tracks.get x))) :
    scanEnded s = formStatus t { s with scanner := { s.scanner with scan := none } } := by
  unfold scanEnded
  simp only [if_pos hs]
  exact (foldl_once (by decide) (mem_allTracks t) (fun u x hx => if_pos (hother x hx)) _).trans (if_neg ht)

/-- Settles O19: the reads in their order, the end of a scan, and the pending one that follows. -/
theorem scanOrder : Obligations.ScanOrder := by
  refine ⟨fun held n s t => nextLinkRead_parked held, fun held n s => nextLinkRead_none held,
    fun held n i => nextFlagRead_held, fun held n => nextFlagRead_none,
    fun s held next hs => ⟨fun r => continueScan_read hs, fun hr => ⟨fun hp => ?alone, fun hp => ?pending⟩⟩,
    fun s ht => ⟨fun hs => scanEnded_same hs ht, fun hs => scanEnded_summary hs ht⟩,
    fun s t hs ht hother => scanEnded_status hs ht hother⟩
  case alone => rw [continueScan_ends hs hr, endScan_alone hp]
  case pending =>
    have hformed := scanEnded_formed s
    have he : { scanEnded s with scanner := { s.scanner with scan := none, pending := false } } = pendingTaken s := rfl
    simp only [he]
    rw [continueScan_ends hs hr, endScan_pending hp]
    have hanchor : (pendingTaken s).control.anchor = s.control.anchor := congrArg Control.anchor hformed.control
    have hout : resultOutstanding (pendingTaken s) = resultOutstanding s :=
      resultOutstanding_congr hformed.results hformed.inFlight
    have hheld : heldSlots (pendingTaken s) = heldSlots s := by
      unfold heldSlots
      rw [show (pendingTaken s).faults = s.faults from hformed.faults]
    have hfirst (ho : resultOutstanding s = true) :
        firstScanRead (heldSlots (pendingTaken s)) (pendingTaken s) = nextLinkRead (heldSlots s) 0 s := by
      rw [firstScanRead_link _ (hout.trans ho), hheld]
      exact nextLinkRead_tracks (s := s) _ _ hformed.tracks
    rw [hanchor]
    refine ⟨fun ha => if_pos ha, fun ha => ⟨heldSlots s, heldSlots_isHeldSet s, ?_⟩⟩
    rw [if_neg ha]
    refine ⟨fun ho => ?slot, fun ho => ⟨fun r hr => ?link, fun hr => ?ends⟩⟩
    case slot =>
      rw [beginScan_read (firstScanRead_slot _ (hout.trans ho)), hheld, requestScanRead_eq]
      rfl
    case link =>
      rw [beginScan_read ((hfirst ho).trans hr), hheld, requestScanRead_eq]
      rfl
    case ends => rw [beginScan_ends ((hfirst ho).trans hr), scanEnded_pendingTaken]

/-! ## RUN (R172 to R174) -/

/-- Every kind of fault is named by its code. -/
theorem exists_code (i : Fin 12) : ∃ k : FaultKind, k.code = i := by
  fin_cases i
  exacts [⟨.late, rfl⟩, ⟨.laneCollision, rfl⟩, ⟨.notOwner, rfl⟩, ⟨.claimConflict, rfl⟩, ⟨.probeBusy, rfl⟩,
    ⟨.windowStarved, rfl⟩, ⟨.awaitTimeout, rfl⟩, ⟨.captureLoss, rfl⟩, ⟨.badSegment, rfl⟩, ⟨.badAction, rfl⟩,
    ⟨.busRead, rfl⟩, ⟨.busWrite, rfl⟩]

theorem deviceKindPending_iff (f : FaultCollector) :
    deviceKindPending f = true ↔
      ∃ k : FaultKind, faultWordHas f.word k = true ∧ (f.policy.get k.code).cls = .device := by
  unfold deviceKindPending faultWordHas
  rw [List.any_eq_true]
  constructor
  · rintro ⟨i, -, hi⟩
    obtain ⟨k, rfl⟩ := exists_code i
    rw [Bool.and_eq_true, beq_iff_eq] at hi
    exact ⟨k, hi⟩
  · rintro ⟨k, hk⟩
    exact ⟨k.code, List.mem_finRange _, by rw [Bool.and_eq_true, beq_iff_eq]; exact hk⟩

variable {pins : Word16}

theorem exec_run (pins : Word16) (h : s.control.resetLow = false) :
    exec (.run pins) s = .next (respond .written (servePort (runCommand pins s))) := controlWrite_high (runCommand pins) h

theorem runCommand_noAnchor (hd : s.control.device = .stopped) (ha : s.control.anchor = 0) :
    runCommand pins s = { s with control := { s.control with runRefused := true } } := by
  unfold runCommand
  rw [hd]
  exact if_pos ha

theorem runCommand_stopped (hd : s.control.device = .stopped) (ha : s.control.anchor ≠ 0) :
    runCommand pins s = acceptRun (takeReferences pins s) := by
  unfold runCommand
  rw [hd]
  exact if_neg ha

theorem runCommand_running (hd : s.control.device = .running) : runCommand pins s = s := by
  unfold runCommand
  rw [hd]

theorem runCommand_refused (hd : s.control.device = .halted) (hk : deviceKindPending s.faults = true) :
    runCommand pins s = { s with control := { s.control with runRefused := true } } := by
  unfold runCommand
  rw [hd]
  exact if_pos hk

theorem runCommand_halted (hd : s.control.device = .halted) (hk : ¬ deviceKindPending s.faults = true) :
    runCommand pins s = acceptRun s := by
  unfold runCommand
  rw [hd]
  exact if_neg hk

/-- Settles O16: RUN is refused, ignored or accepted by the device's state, ANCHOR and the fault word. -/
theorem runJudged : Obligations.RunJudged := by
  refine ⟨fun _ _ => rfl, fun s pins hhigh => ?_⟩
  intro deviceKind
  have hkind : deviceKindPending s.faults = true ↔ deviceKind := deviceKindPending_iff s.faults
  have hrefused : PortQuiet s → PortQuiet { s with control := { s.control with runRefused := true } } := id
  refine ⟨fun hq => ⟨fun hd ha => ?noAnchor, fun hd => ?running, fun hd hk => ?refused⟩, fun hd ha => ?stopped,
    fun hd hk => ?halted⟩
  case noAnchor => rw [exec_run pins hhigh, runCommand_noAnchor hd ha, servePort_quiet (hrefused hq)]; rfl
  case running => rw [exec_run pins hhigh, runCommand_running hd, servePort_quiet hq]; rfl
  case refused => rw [exec_run pins hhigh, runCommand_refused hd (hkind.mpr hk), servePort_quiet (hrefused hq)]; rfl
  case stopped => rw [exec_run pins hhigh, runCommand_stopped hd ha]; rfl
  case halted => rw [exec_run pins hhigh, runCommand_halted hd (mt hkind.mp hk)]; rfl

end Sys2Proof.Machine.Scanner
end

section
/-! SUPPORT. Taking a fault (R110, R113 to R116, R123 to R125). -/

namespace Sys2Proof.Machine.FaultTaking

open Sys2Proof.Machine.Laws Sys2Proof.Machine.Scanner

variable {s u : State} {kind : FaultKind} {c : FaultContext}

theorem freeSlot_some {n : SlotId} (h : s.faults.slots.get n = .free) (hleast : ∀ m, m < n → s.faults.slots.get m ≠ .free) :
    freeSlot s = some n :=
  find?_least allSlots_ascending (mem_allSlots n) (beq_iff_eq.mpr h) fun m hm => beq_eq_false_iff_ne.mpr (hleast m hm)

theorem freeSlot_none (h : ∀ n, s.faults.slots.get n ≠ .free) : freeSlot s = none :=
  List.find?_eq_none.mpr fun n _ => by simpa using h n

theorem countLost_eq (s : State) :
    countLost s = { s with faults := { s.faults with lost := add64 s.faults.lost 1 } } := rfl

theorem assignSlot_free (i : Incident) {n : SlotId} (h : freeSlot s = some n) :
    assignSlot i false s =
      { s with
        faults := { s.faults with slots := s.faults.slots.put n .writing }
        port := { s.port with incidents := s.port.incidents ++ [⟨n, i⟩] } } := by
  unfold assignSlot
  simp only [h]
  rfl

theorem assignSlot_full (i : Incident) (h : freeSlot s = none) : assignSlot i false s = countLost s := by
  unfold assignSlot
  simp only [h]
  rfl

theorem assignSlot_slotless (i : Incident) (s : State) : assignSlot i true s = countLost s := rfl

theorem takeFault_masked (slotless : Bool) (h : (s.faults.policy.get kind.code).masked = true) :
    takeFault kind c slotless s = { s with faults := { s.faults with masked := s.faults.masked + 1 } } := if_pos h

/-- The incident of a fault that is taken (R113, R123). -/
def incidentOf (kind : FaultKind) (c : FaultContext) (s : State) : Incident :=
  ⟨(add64 s.faults.sequence 1).extractLsb' 0 32, kind, resolveClass (s.faults.policy.get kind.code).cls c s, c⟩

/-- The fault is recorded and its class action taken (R113). -/
def actedOn (kind : FaultKind) (c : FaultContext) (s : State) : State :=
  classAction (resolveClass (s.faults.policy.get kind.code).cls c s) kind c
    (recordFault kind (resolveClass (s.faults.policy.get kind.code).cls c s) c s)

theorem takeFault_unmasked (slotless : Bool) (h : (s.faults.policy.get kind.code).masked = false) :
    takeFault kind c slotless s =
      withCause .incident (assignSlot (incidentOf kind c s) slotless (actedOn kind c s)) := by
  have hnumber : (add64 s.faults.sequence 1).setWidth 32 = (add64 s.faults.sequence 1).extractLsb' 0 32 :=
    BitVec.setWidth_eq_extractLsb' (by decide)
  unfold takeFault incidentOf
  rw [← hnumber]
  exact if_neg (by simp [h])

theorem faultWordHas_or_bit (w : BitVec 12) (kind k : FaultKind) :
    faultWordHas (w ||| kind.bit) k = (faultWordHas w k || decide (k = kind)) := by
  have hbit : kind.bit.getLsbD k.code.val = decide (k = kind) := by cases kind <;> cases k <;> decide
  unfold faultWordHas
  rw [BitVec.getLsbD_or, hbit]

/-- Settles O41: a masked fault is counted; another is recorded, acted on, and given a slot or counted lost. -/
theorem faultTaken : Obligations.FaultTaken := by
  intro s kind c e cls q u
  have hu : actedOn kind c s = u := rfl
  have hi : incidentOf kind c s = ⟨q.extractLsb' 0 32, kind, cls, c⟩ := rfl
  refine ⟨fun hm => ⟨takeFault_masked false hm, takeFault_masked true hm⟩, fun hm => ⟨fun n hn hleast => ?free,
    fun hn => ?full, ?slotless⟩, faultWordHas_or_bit _ kind⟩
  case free => rw [raiseFault, takeFault_unmasked false hm, hu, assignSlot_free _ (freeSlot_some hn hleast), hi]
  case full => rw [raiseFault, takeFault_unmasked false hm, hu, assignSlot_full _ (freeSlot_none hn), countLost_eq]
  case slotless => rw [takeFault_unmasked true hm, hu, assignSlot_slotless, countLost_eq]

end Sys2Proof.Machine.FaultTaking
end

section
/-! SUPPORT. The advance of the count (R1, R5, R86), the return edges of the lanes (R78) and the LANE pins (R66). -/

namespace Sys2Proof.Machine.TickAdvance

open Sys2Proof.Machine.Laws

variable {s u : State} {pins : Word16} {l : LaneId}

theorem counting_iff (s : State) : s.counting = true ↔ s.control.device ≠ .stopped ∧ s.control.resetLow = false := by
  simp [State.counting, and_comm]

/-! ## The advance -/

/-- What a detector sees at a sample (R86). -/
def sampledEdge (reference : Option Bool) (level : Bool) : Option Polarity :=
  match reference, level with
  | some false, true => some .rise
  | some true, false => some .fall
  | _, _ => none

theorem sample_eq (level : Bool) (d : Detector) :
    d.sample level = ⟨some level, sampledEdge d.reference level, sampledEdge d.reference level⟩ := by
  unfold Detector.sample sampledEdge
  cases d.reference with
  | none => rfl
  | some r => cases r <;> cases level <;> rfl

theorem advance_eq (pins : Word16) (u : State) :
    advance pins u =
      { u with
        timebase := { u.timebase with
          count := add64 u.timebase.count 1
          boundary := decide ((add64 u.timebase.count 1).toNat % 2 ^ u.timebase.frame = 0) }
        probes := { u.probes with
          detectors := Table.tab fun p =>
            ⟨some (pins.getLsbD p.val), sampledEdge (u.probes.detectors.get p).reference (pins.getLsbD p.val),
              sampledEdge (u.probes.detectors.get p).reference (pins.getLsbD p.val)⟩ } } := by
  unfold advance
  simp only [sample_eq, beq_eq_decide]

theorem advance_lanes (pins : Word16) (u : State) : (advance pins u).lanes = u.lanes := rfl

theorem exec_countAdvance (pins : Word16) (h : s.counting = true) :
    exec (.countAdvance pins) s = .next (advance pins (takeTickEvents s)) := by
  have hexec : exec (.countAdvance pins) s = execCountAdvance pins s := rfl
  rw [hexec]
  exact if_pos h

theorem exec_countAdvance_still (pins : Word16) (h : s.counting = false) : exec (.countAdvance pins) s = .next s := by
  have hexec : exec (.countAdvance pins) s = execCountAdvance pins s := rfl
  rw [hexec]
  exact if_neg (by simp [h])

/-- Settles O27: the events of the tick are taken and keep the count; then it advances and the detectors sample. -/
theorem countAdvances : Obligations.CountAdvances := by
  refine ⟨counting_iff, fun a n => Timebase.add64_toNat, fun s pins => ⟨exec_countAdvance_still pins, fun h => ?_, fun h => ?_⟩⟩
  · obtain ⟨hcount, hframe, hhi, -, -, -⟩ := part_keeps (takeTickEvents_moves (s₀ := s) .refl)
    refine ⟨_, exec_countAdvance pins h, ?_⟩
    rw [advance_eq]
    generalize takeTickEvents s = u at hcount hframe hhi ⊢
    refine ⟨by simp only [hcount], hframe, hhi, ?_, fun p => ?_⟩
    · rw [hframe]
      exact decide_eq_true_iff
    · simp only [Table.get_tab]
  · intro advanced
    have hadvanced : ∀ v, advance pins v = advanced v := advance_eq pins
    refine ⟨fun howed => ?_, fun hnone => ?_⟩
    · have houtcomes : allTracks.foldl (fun u t => takeOutcome t u) s = takeOutcomes s := rfl
      rw [exec_countAdvance pins h, takeTickEvents_outcomes howed, tickEvent_counting _ h, hadvanced, houtcomes]
    · rw [exec_countAdvance pins h, takeTickEvents_nothing hnone, hadvanced]

/-! ## The lanes -/

theorem exec_returnEdgeExpiry (l : LaneId) (h : s.counting = true) :
    exec (.returnEdgeExpiry l) s = .next (servePort (returnEdgeEvent l s)) :=
  congrArg Host.Outcome.next (tickEvent_counting (returnEdgeEvent l) h)

theorem expire_due {now : Instant} {k : Lane} {r : ReturnEdge} (h : k.returnEdge = some r) (hr : r.instant ≤ now) :
    Lane.expire now k = { k with level := r.level.toLevel, returnEdge := none } := by
  unfold Lane.expire
  rw [h]
  exact if_pos hr

theorem returnEdgeEvent_due {r : ReturnEdge} (h : (s.lanes.get l).returnEdge = some r) (hr : r.instant ≤ s.now) :
    returnEdgeEvent l s =
      { s with lanes := s.lanes.put l { s.lanes.get l with level := r.level.toLevel, returnEdge := none } } := by
  have hput : returnEdgeEvent l s = { s with lanes := s.lanes.put l (Lane.expire s.now (s.lanes.get l)) } := rfl
  rw [hput, expire_due h hr]

theorem leavesTick_iff (c : Instr) (s : State) :
    leavesTick c s = true ↔ (∃ pins, c = .countAdvance pins) ∨ s.counting = false := by
  cases c <;> simp [leavesTick]

/-- Settles O29: a return edge that is due sets its level; a pin shows what the events of its tick leave. -/
theorem returnEdgeExpires : Obligations.ReturnEdgeExpires := by
  refine ⟨fun s l h => ⟨fun r hr hdue => ?due, fun hr => ?notDue⟩, fun s l => rfl, fun s l pins h => ?pin,
    fun s l h => tickPin_settled ?settled, fun l s => ⟨rfl, fun c cs t hc => ⟨fun hl => ?leaves, fun hc' hs => ?stays⟩⟩⟩
  case due =>
    rw [exec_returnEdgeExpiry l h, returnEdgeEvent_due hr hdue]
    cases r.level <;> rfl
  case notDue => rw [exec_returnEdgeExpiry l h, returnEdgeEvent_before hr]
  case pin =>
    refine ⟨_, exec_countAdvance pins h, ?_⟩
    rw [advance_lanes, tickPin, counting_high h, if_neg Bool.false_ne_true]
  case settled => exact h.elim takeTickEvents_still takeTickEvents_nothing
  case leaves => exact pinRun_leaves hc ((leavesTick_iff c s).mpr hl)
  case stays =>
    refine pinRun_stays hc (Bool.eq_false_iff.mpr fun hl => ?_)
    rcases (leavesTick_iff c s).mp hl with ⟨pins, rfl⟩ | hstill
    · exact hc' pins rfl
    · exact Bool.false_ne_true (hstill.symm.trans hs)

end Sys2Proof.Machine.TickAdvance
end

section
/-! SUPPORT. What a hand-off does: at the Lane Bank (R69 to R76) and at the Probe Bank (R89, R90, R102). -/

namespace Sys2Proof.Machine.HandOffs

open Sys2Proof.Machine.Laws

variable {s : State} {h : HandOff}

/-! ## The Lane Bank -/

theorem add64Held_fits {a : Word64} {n : Nat} (hn : a.toNat + n < 2 ^ 64) : (add64Held a n).toNat = a.toNat + n := by
  unfold add64Held
  rw [if_pos hn, BitVec.toNat_ofNat, Nat.mod_eq_of_lt hn]

theorem add64Held_exceeds {a : Word64} {n : Nat} (hn : 2 ^ 64 ≤ a.toNat + n) : (add64Held a n).toNat = 2 ^ 64 - 1 := by
  unfold add64Held
  rw [if_neg (Nat.not_lt.mpr hn)]
  rfl

/-- A return edge that is applied changes a level and the edge alone (R78). -/
theorem expire_fields (now : Instant) (k : Lane) :
    k.expire now = { k with level := (k.expire now).level, returnEdge := (k.expire now).returnEdge } := by
  unfold Lane.expire
  split
  · split <;> rfl
  · rfl

theorem onSet_expireOn (b : LaneBank) (S : LaneSet) (now : Instant) (f : Lane → Lane) :
    (b.expireOn S now).onSet S f =
      Table.tab fun l => if laneIn S l = true then f ((b.get l).expire now) else b.get l := by
  unfold LaneBank.onSet
  congr 1
  funext l
  rw [expireOn_get]
  by_cases hl : laneIn S l = true <;> simp [hl]

/-- A hand-off of owned lanes, by what each of them becomes (R74). -/
theorem handLanes_becomes {f g : Lane → Lane} (hf : ∀ k, f (Lane.expire s.now k) = g k)
    (ho : ∀ l, laneIn h.lanes l = true → (s.lanes.get l).owner = some h.track) :
    handLanes h f s =
      { s with lanes := Table.tab fun l => if laneIn h.lanes l = true then g (s.lanes.get l) else s.lanes.get l } := by
  rw [handLanes_owned ho, onSet_expireOn]
  simp only [hf]

theorem drive_expire (v : Level) (now : Instant) (k : Lane) :
    Lane.drive v (k.expire now) = { k with level := v, returnEdge := none } := by
  rw [expire_fields]
  rfl

theorem toggle_expire (now : Instant) (k : Lane) :
    Lane.toggle (k.expire now) = { k with level := (k.expire now).level.invert, returnEdge := none } := by
  unfold Lane.toggle
  generalize hl : (k.expire now).level = v
  rw [expire_fields]

theorem pulse_expire (p : Drive) (w : Word32) (d now : Instant) (k : Lane) :
    Lane.pulse p w d (k.expire now) =
      { k with level := p.toLevel, returnEdge := some ⟨add64Held d w.toNat, p.opposite⟩ } := by
  rw [expire_fields]
  rfl

theorem free_expire (now : Instant) (k : Lane) :
    Lane.free (k.expire now) = { k with owner := none, level := k.safe, returnEdge := none } := by
  rw [expire_fields]
  rfl

theorem claim_expire_owned {k : Lane} {t x : TrackId} (now : Instant) (ho : k.owner = some x) :
    Lane.claim t (k.expire now) = k.expire now := by
  unfold Lane.claim
  rw [expire_owner, ho]

theorem claim_expire_free {k : Lane} (t : TrackId) (now : Instant) (ho : k.owner = none) :
    Lane.claim t (k.expire now) =
      { k with owner := some t, level := if k.safe = .float then .low else k.safe, returnEdge := none } := by
  unfold Lane.claim
  rw [expire_owner, ho, expire_fields]

theorem laneIn_notOwned (b : LaneBank) (t : TrackId) (S : LaneSet) (l : LaneId) :
    laneIn (b.notOwned t S) l = true ↔ laneIn S l = true ∧ (b.get l).owner ≠ some t := by
  simp [LaneBank.notOwned, LaneBank.owns]

theorem laneIn_ownedByOthers (b : LaneBank) (t : TrackId) (S : LaneSet) (l : LaneId) :
    laneIn (b.ownedByOthers t S) l = true ↔
      laneIn S l = true ∧ (b.get l).owner ≠ some t ∧ (b.get l).owner ≠ none := by
  simp [LaneBank.ownedByOthers, LaneBank.owns, Option.isSome_iff_ne_none]
  tauto

/-- A drive and a RELEASE go to the Lane Bank for lanes the track owns (R72, R73). -/
theorem handAction_lanes {a : Action} (ha : a.isDriving = true ∨ a = .release) (hh : h.action = a) (s : State) :
    ∃ f, handAction h s = handLanes h f s := by
  unfold handAction
  rw [hh]
  rcases ha with ha | rfl
  · cases a with
    | set => exact ⟨_, rfl⟩
    | clear => exact ⟨_, rfl⟩
    | toggle => exact ⟨_, rfl⟩
    | pulse p w => exact ⟨_, rfl⟩
    | _ => cases ha
  · exact ⟨_, rfl⟩

/-- Settles O31: a hand-off that names a lane of another is refused whole, with the offending lanes. -/
theorem laneHandOffsRefused : Obligations.LaneHandOffsRefused := by
  intro s t S g i q n u
  refine ⟨fun ho => ⟨_, laneIn_notOwned s.lanes t S, fun a ha => ?lanes⟩, fun ho =>
    ⟨_, laneIn_ownedByOthers s.lanes t S, handClaim_refused (h := ⟨t, .claim, S, g, i, q, n⟩) ho⟩⟩
  case lanes =>
    obtain ⟨f, hf⟩ := handAction_lanes (h := ⟨t, a, S, g, i, q, n⟩) ha rfl s
    rw [hf, handLanes_refused ho]
    rfl

section
variable (t : TrackId) (S : LaneSet) (g : Address) (i : Nat) (q : Word32) (n : Bool) (p : Drive) (w : Word32) (s : State)

theorem handAction_set :
    handAction ⟨t, .set, S, g, i, q, n⟩ s = handLanes ⟨t, .set, S, g, i, q, n⟩ (Lane.drive .high) s := rfl

theorem handAction_clear :
    handAction ⟨t, .clear, S, g, i, q, n⟩ s = handLanes ⟨t, .clear, S, g, i, q, n⟩ (Lane.drive .low) s := rfl

theorem handAction_toggle :
    handAction ⟨t, .toggle, S, g, i, q, n⟩ s = handLanes ⟨t, .toggle, S, g, i, q, n⟩ Lane.toggle s := rfl

theorem handAction_pulse : handAction ⟨t, .pulse p w, S, g, i, q, n⟩ s =
    handLanes ⟨t, .pulse p w, S, g, i, q, n⟩ (Lane.pulse p w s.timebase.count) s := rfl

theorem handAction_release :
    handAction ⟨t, .release, S, g, i, q, n⟩ s = handLanes ⟨t, .release, S, g, i, q, n⟩ Lane.free s := rfl

theorem handAction_claim :
    handAction ⟨t, .claim, S, g, i, q, n⟩ s = handClaim ⟨t, .claim, S, g, i, q, n⟩ s := rfl

end

theorem invert_eq (v : Level) : v.invert = match v with
    | .low => .high
    | .high => .low
    | .float => .float := by
  cases v <;> rfl

theorem claimLevel_eq (v : Level) : (if v = .float then Level.low else v) = match v with
    | .float => .low
    | .low => .low
    | .high => .high := by
  cases v <;> rfl

/-- Settles O30: a hand-off of lanes that are free to it sets each of them, and no other. -/
theorem laneHandOffsAccepted : Obligations.LaneHandOffsAccepted := by
  refine ⟨fun S l => rfl, fun now k => ⟨fun r hr hdue => TickAdvance.expire_due hr hdue, expire_before⟩,
    ⟨rfl, rfl, rfl, rfl⟩, fun a n => ⟨add64Held_fits, add64Held_exceeds⟩, fun s t S g i q n => ⟨fun ho => ?_, fun ho => ?_⟩⟩
  · refine ⟨?set, ?clear, ?toggle, fun p w => ?pulse, ?release⟩
    case set =>
      rw [handAction_set]
      exact handLanes_becomes (g := fun k => { k with level := .high, returnEdge := none }) (drive_expire .high _) ho
    case clear =>
      rw [handAction_clear]
      exact handLanes_becomes (g := fun k => { k with level := .low, returnEdge := none }) (drive_expire .low _) ho
    case toggle =>
      rw [handAction_toggle, handLanes_becomes
        (g := fun k => { k with level := (k.expire s.timebase.count).level.invert, returnEdge := none }) (toggle_expire _) ho]
      simp only [invert_eq] <;> rfl
    case pulse =>
      rw [handAction_pulse]
      exact handLanes_becomes
        (g := fun k => { k with level := p.toLevel, returnEdge := some ⟨add64Held s.timebase.count w.toNat, p.opposite⟩ })
        (pulse_expire p w _ _) ho
    case release =>
      rw [handAction_release]
      exact handLanes_becomes (g := fun k => { k with owner := none, level := k.safe, returnEdge := none })
        (free_expire _) ho
  · rw [handAction_claim, handClaim_free ho, onSet_expireOn]
    congr 2
    funext l
    by_cases hl : laneIn S l = true
    · rw [if_pos hl, if_pos hl]
      cases howner : (s.lanes.get l).owner with
      | none =>
        rw [claim_expire_free t _ howner, claimLevel_eq] <;> rfl
      | some x => exact claim_expire_owned _ howner
    · rw [if_neg hl, if_neg hl]

end Sys2Proof.Machine.HandOffs
end

section
/-! SUPPORT. What a hand-off does at the Probe Bank (R58, R89, R90, R102), and the closing of a window at its deadline
(R93 to R95). -/

namespace Sys2Proof.Machine.ProbeBankEvents

open Sys2Proof.Machine.Laws

variable {s : State} {h : HandOff} {p : ProbeId}

/-! ## OPEN, CLOSE, AWAIT -/

section
variable {e : EdgeKind} {b : Address} {cap lim span quiet : Nat} {pol : TimeoutPolicy}

theorem handOpen_free (hw : (s.probes.windows.get p).state = .free) :
    handOpen h p e b cap lim span quiet s = withWindow p
      { s.probes.windows.get p with
        state := .isOpen, owner := some h.track, edge := e, bucket := b, capacity := cap, limit := lim
        deadline := spanEnd s.now span, quiet := quiet, count := 0, suppressed := 0, lost := 0, firstTime := none
        lastTime := none, openTime := s.now, cause := none, pending := 0, notify := h.notify, origin := h.origin } s :=
  if_pos hw

theorem handOpen_busy (hw : (s.probes.windows.get p).state ≠ .free) :
    handOpen h p e b cap lim span quiet s = raiseFault .probeBusy (h.context 0 (some p) s.now) s := if_neg hw

theorem handClose_owned (hw : (s.probes.windows.get p).state = .isOpen)
    (ho : (s.probes.windows.get p).owner = some h.track) : handClose h p s = closeWindow p .closed s.now s :=
  (if_pos hw).trans (if_pos ho)

theorem handClose_refused (hw : (s.probes.windows.get p).state = .isOpen)
    (ho : (s.probes.windows.get p).owner ≠ some h.track) :
    handClose h p s = raiseFault .notOwner (h.context 0 (some p) s.now) s := (if_pos hw).trans (if_neg ho)

theorem handClose_other (hw : (s.probes.windows.get p).state ≠ .isOpen) : handClose h p s = s := if_neg hw

theorem handAwait_closing (hs : (s.tracks.get h.track).state = .closing) : handAwait h p e span pol s = s := if_pos hs

theorem handAwait_arms (hs : (s.tracks.get h.track).state ≠ .closing) (ha : (s.probes.listeners.get p).armed = false) :
    handAwait h p e span pol s = withListener p ⟨true, some h.track, e, spanEnd s.now span, pol, h.origin⟩ s :=
  (if_neg hs).trans (if_neg (by simp [ha]))

theorem handAwait_busy (hs : (s.tracks.get h.track).state ≠ .closing) (ha : (s.probes.listeners.get p).armed = true) :
    handAwait h p e span pol s = takeBusy h.track (raiseFault .probeBusy (h.context 0 (some p) s.now)) s :=
  (if_neg hs).trans (if_pos ha)

end

/-- Settles O32: each action meets its window or listener free, its own, or busy. -/
theorem probeHandOffs : Obligations.ProbeHandOffs := by
  intro s t p S g i q n d c
  let close : HandOff := ⟨t, .closeWindow p, S, g, i, q, n⟩
  refine ⟨fun e b cap lim span quiet => ⟨handOpen_free, handOpen_busy⟩,
    fun hw => ⟨fun ho => handClose_owned (h := close) hw ho, fun ho => handClose_refused (h := close) hw ho⟩,
    handClose_other, fun e span pol => ?_, fun tag => rfl⟩
  let await : HandOff := ⟨t, .await p e span pol, S, g, i, q, n⟩
  refine ⟨handAwait_closing (h := await), handAwait_arms (h := await), fun hs hs' ha => ?busy, fun hs ha => ?awaiting⟩
  case busy => exact (handAwait_busy (h := await) hs ha).trans (takeBusy_other hs')
  case awaiting => exact (handAwait_busy (h := await) (by simp [await, hs]) ha).trans (takeBusy_awaiting hs)

/-! ## The closing of a window (R93 to R95) -/

theorem requestBucketSummary_eq {c : CloseCause} (h : (s.probes.windows.get p).cause = some c) :
    requestBucketSummary p s =
      { s with port := { s.port with summaries := s.port.summaries ++
          [⟨p, (s.probes.windows.get p).bucket, (s.probes.windows.get p).header p c⟩] } } := by
  unfold requestBucketSummary
  simp only [h]
  rfl

theorem closeWindow_pending (hw : (s.probes.windows.get p).state = .isOpen) (hp : (s.probes.windows.get p).pending ≠ 0)
    (c : CloseCause) (time : Instant) :
    closeWindow p c time s =
      withWindow p { s.probes.windows.get p with state := .closing, cause := some c, closeTime := time } s := by
  rw [closeWindow_open hw]
  exact if_neg hp

theorem closeWindow_settled (hw : (s.probes.windows.get p).state = .isOpen) (hp : (s.probes.windows.get p).pending = 0)
    (c : CloseCause) (time : Instant) :
    closeWindow p c time s = requestBucketSummary p
      (withWindow p { s.probes.windows.get p with state := .closing, cause := some c, closeTime := time } s) := by
  rw [closeWindow_open hw]
  exact if_pos hp

theorem exec_deadlineExpiry (p : ProbeId) (h : s.counting = true) :
    exec (.deadlineExpiry p) s = .next (servePort (deadlineEvent p s)) :=
  congrArg Host.Outcome.next (tickEvent_counting (deadlineEvent p) h)

theorem reached_some {i now : Instant} (h : i ≤ now) : reached (some i) now = true := decide_eq_true h

theorem reached_of_not_due {o : Option Instant} {now : Instant} (h : o = none ∨ ∃ i, o = some i ∧ now < i) :
    reached o now = false := by
  rcases h with rfl | ⟨i, rfl, hi⟩
  · rfl
  · exact decide_eq_false (BitVec.not_le.mpr hi)

theorem deadlineEvent_due {d : Instant} (hw : (s.probes.windows.get p).state = .isOpen)
    (hd : (s.probes.windows.get p).deadline = some d) (hdue : d ≤ s.now) :
    deadlineEvent p s =
      if (s.probes.windows.get p).count = 0 then
        raiseFault .windowStarved (windowContext p (s.probes.windows.get p) d) (closeWindow p .deadline d s)
      else closeWindow p .deadline d s := by
  unfold deadlineEvent
  simp only [hw, hd, reached_some hdue, and_self, if_true, Option.getD_some]

/-- Settles O33: an OPEN window closes, at once with its summary where none of its records is pending. -/
theorem windowCloses : Obligations.WindowCloses := by
  intro s p c time w u
  refine ⟨fun hw => closeWindow_other hw c time, fun hw hp => closeWindow_pending hw hp c time, fun hw hp => ?settled,
    fun hc => ⟨fun d hw hd hdue => ⟨fun hn => ?closes, fun h0 => ?starved⟩, fun h => ?notDue⟩⟩
  case settled =>
    rw [closeWindow_settled hw hp, requestBucketSummary_eq (c := c) (by rw [withWindow_get_self]), withWindow_get_self]
    rfl
  case closes => rw [exec_deadlineExpiry p hc, deadlineEvent_due hw hd hdue, if_neg hn]
  case starved => rw [exec_deadlineExpiry p hc, deadlineEvent_due hw hd hdue, if_pos h0]; rfl
  case notDue =>
    rw [exec_deadlineExpiry p hc, deadlineEvent_before fun hw => reached_of_not_due (h.resolve_left fun hn => hn hw)]

/-! ## An edge at the window (R86, R91, R92) -/

theorem admits_iff (k : EdgeKind) (pol : Polarity) :
    k.admits pol = true ↔ k = .both ∨ (k = .rise ∧ pol = .rise) ∨ (k = .fall ∧ pol = .fall) := by
  cases k <;> cases pol <;> decide

theorem succ32Sat_below {c : Word32} (h : c.toNat < 2 ^ 32 - 1) : (succ32Sat c).toNat = c.toNat + 1 := by
  have hne : c ≠ BitVec.allOnes 32 := by
    rintro rfl
    exact absurd h (by decide)
  unfold succ32Sat
  rw [if_neg hne, BitVec.toNat_add, Nat.mod_eq_of_lt]
  · rfl
  · exact Nat.add_lt_of_lt_sub h

theorem succ32Sat_full {c : Word32} (h : c.toNat = 2 ^ 32 - 1) : succ32Sat c = c :=
  if_pos (BitVec.eq_of_toNat_eq h) |>.trans rfl

/-- The state with an edge handed to the window of its probe (R86). -/
def windowSeen (p : ProbeId) (s : State) : State :=
  { s with probes := { s.probes with
    detectors := s.probes.detectors.put p { s.probes.detectors.get p with windowEdge := none } } }

theorem handWindowEdge_some {pol : Polarity} (h : (s.probes.detectors.get p).windowEdge = some pol) :
    handWindowEdge p s = windowEdge p pol s.timebase.count (windowSeen p s) := by
  unfold handWindowEdge
  rw [h]
  rfl

section
variable {pol : Polarity} {e : Instant}

theorem windowEdge_ignored (h : (s.probes.windows.get p).state ≠ .isOpen ∨ (s.probes.windows.get p).edge.admits pol = false) :
    windowEdge p pol e s = s :=
  if_neg fun ⟨hw, ha⟩ => h.elim (· hw) fun hf => Bool.false_ne_true (hf.symm.trans ha)

theorem quietAt_iff (w : Window) (e : Instant) :
    w.quietAt e = true ↔ ∃ l, w.lastTime = some l ∧ e.toNat < l.toNat + w.quiet := by
  unfold Window.quietAt
  cases w.lastTime <;> simp

variable (hw : (s.probes.windows.get p).state = .isOpen) (ha : (s.probes.windows.get p).edge.admits pol = true)
include hw ha

theorem windowEdge_suppressed (hq : (s.probes.windows.get p).quietAt e = true) :
    windowEdge p pol e s =
      withWindow p { s.probes.windows.get p with suppressed := succ32Sat (s.probes.windows.get p).suppressed } s :=
  (if_pos ⟨hw, ha⟩).trans (if_pos hq)

theorem windowEdge_lost (hq : ¬ (s.probes.windows.get p).quietAt e = true) (hf : 32 ≤ s.probes.captures.length) :
    windowEdge p pol e s =
      raiseFault .captureLoss (windowContext p (s.probes.windows.get p) e)
        (withWindow p { s.probes.windows.get p with lost := succ32Sat (s.probes.windows.get p).lost } s) :=
  (if_pos ⟨hw, ha⟩).trans ((if_neg hq).trans (if_pos hf))

theorem windowEdge_admitted (hq : ¬ (s.probes.windows.get p).quietAt e = true) (hf : ¬ 32 ≤ s.probes.captures.length) :
    windowEdge p pol e s = admitEdge p pol e s :=
  (if_pos ⟨hw, ha⟩).trans ((if_neg hq).trans (if_neg hf))

end

/-- The window record after an admission (R91). -/
def admitted (w : Window) (e : Instant) : Window :=
  { w with
    count := w.count + 1, pending := w.pending + 1, lastTime := some e
    firstTime := match w.firstTime with
      | some f => some f
      | none => some e }

/-- The state after an admission, before a bound closes the window (R91, R98). -/
def admission (p : ProbeId) (pol : Polarity) (e : Instant) (s : State) : State :=
  withWindow p (admitted (s.probes.windows.get p) e)
    { s with probes := { s.probes with captures := s.probes.captures ++
      [⟨p, (s.probes.windows.get p).bucket, (s.probes.windows.get p).count, e, pol⟩] } }

theorem admitEdge_eq (p : ProbeId) (pol : Polarity) (e : Instant) (s : State) :
    admitEdge p pol e s =
      (admitted (s.probes.windows.get p) e).boundReached.elim (admission p pol e s)
        fun c => closeWindow p c e (admission p pol e s) := by
  have hfirst : some ((s.probes.windows.get p).firstTime.getD e) = (admitted (s.probes.windows.get p) e).firstTime := by
    unfold admitted
    cases (s.probes.windows.get p).firstTime <;> rfl
  have hadmission : (s.modProbes fun b => { b with captures := b.captures ++
        [⟨p, (s.probes.windows.get p).bucket, (s.probes.windows.get p).count, e, pol⟩] }).modWindow p (fun w =>
      { w with count := w.count + 1, pending := w.pending + 1, lastTime := some e
               firstTime := some (w.firstTime.getD e) }) = admission p pol e s := by
    rw [modWindow_eq]
    simp only [modProbes_probes, hfirst]
    rfl
  have hget : (admission p pol e s).probes.windows.get p = admitted (s.probes.windows.get p) e := withWindow_get_self _ _ _
  unfold admitEdge
  simp only [hadmission, hget]
  cases (admitted (s.probes.windows.get p) e).boundReached <;> rfl

theorem boundReached_limit {w : Window} (h0 : w.limit ≠ 0) (h : w.count = w.limit) : w.boundReached = some .limit :=
  if_pos ⟨h0, h⟩

theorem boundReached_full {w : Window} (h0 : w.limit = 0 ∨ w.count ≠ w.limit) (h : w.count = w.capacity) :
    w.boundReached = some .full :=
  (if_neg fun ⟨a, b⟩ => h0.elim a (· b)).trans (if_pos h)

theorem boundReached_none {w : Window} (h0 : w.limit = 0 ∨ w.count ≠ w.limit) (h : w.count ≠ w.capacity) :
    w.boundReached = none :=
  (if_neg fun ⟨a, b⟩ => h0.elim a (· b)).trans (if_neg h)

/-- A window that an admission fills closes with its records pending (R92, R94). -/
theorem closeWindow_admission (hw : (s.probes.windows.get p).state = .isOpen) (pol : Polarity) (e : Instant) (c : CloseCause) :
    closeWindow p c e (admission p pol e s) =
      withWindow p
        { admitted (s.probes.windows.get p) e with state := .closing, cause := some c, closeTime := e }
        (admission p pol e s) := by
  have hget : (admission p pol e s).probes.windows.get p = admitted (s.probes.windows.get p) e := withWindow_get_self _ _ _
  rw [closeWindow_pending (by rw [hget]; exact hw) (by rw [hget]; exact Nat.succ_ne_zero _), hget]

theorem exec_probeEdge (o : EdgeOrder) (p : ProbeId) (h : s.counting = true) :
    exec (.probeEdge p o) s = .next (servePort (handEdge p o s)) :=
  congrArg Host.Outcome.next (tickEvent_counting (handEdge p o) h)

/-- Settles O34: an edge at the window is ignored, suppressed, lost or admitted, and the last can close it. -/
theorem edgeAtWindow : Obligations.EdgeAtWindow := by
  refine ⟨admits_iff, fun c => ⟨succ32Sat_below, succ32Sat_full⟩, fun s p pol hc hedge => ?_⟩
  intro w now u quiet full k v
  have hexec : exec (.probeEdge p .windowOnly) s = .next (servePort (windowEdge p pol now u)) :=
    (exec_probeEdge .windowOnly p hc).trans (congrArg (fun x => Host.Outcome.next (servePort x)) (handWindowEdge_some hedge))
  rw [hexec]
  have hquiet : w.quietAt now = true ↔ quiet := quietAt_iff w now
  refine ⟨fun h => ?ignored, fun hw ha => ⟨fun hq => ?suppressed, fun hq hf => ?lost, fun hq hf hl hcap => ?admitted,
    fun hq hf h0 hl => ?limit, fun hq hf hl hcap => ?full⟩⟩
  case ignored => rw [windowEdge_ignored (s := u) h]
  case suppressed => rw [windowEdge_suppressed (s := u) hw ha (hquiet.mpr hq)]
  case lost => rw [windowEdge_lost (s := u) hw ha (mt hquiet.mp hq) hf]; rfl
  all_goals
    rw [windowEdge_admitted (s := u) hw ha (mt hquiet.mp hq) hf, admitEdge_eq]
  case admitted =>
    rw [boundReached_none (w := admitted (u.probes.windows.get p) now) hl hcap]
    rfl
  case limit =>
    rw [boundReached_limit (w := admitted (u.probes.windows.get p) now) h0 hl]
    rw [Option.elim_some, closeWindow_admission (s := u) hw]
    rfl
  case full =>
    rw [boundReached_full (w := admitted (u.probes.windows.get p) now) hl hcap]
    rw [Option.elim_some, closeWindow_admission (s := u) hw]
    rfl

/-! ## An edge and a timeout at the listener (R103, R104) -/

/-- The state with an edge handed to the listener of its probe (R86). -/
def listenerSeen (p : ProbeId) (s : State) : State :=
  { s with probes := { s.probes with
    detectors := s.probes.detectors.put p { s.probes.detectors.get p with listenerEdge := none } } }

theorem handListenerEdge_some {pol : Polarity} (h : (s.probes.detectors.get p).listenerEdge = some pol) :
    handListenerEdge p s = listenerEdge p pol s.timebase.count (listenerSeen p s) := by
  unfold handListenerEdge
  rw [h]
  rfl

section
variable {pol : Polarity} {e i : Instant} {t : TrackId}

theorem listenerEdge_ignored
    (h : (s.probes.listeners.get p).armed = false ∨ (s.probes.listeners.get p).edge.admits pol = false) :
    listenerEdge p pol e s = s :=
  if_neg fun ⟨hk, ha⟩ => h.elim (fun hf => Bool.false_ne_true (hf.symm.trans hk)) fun hf =>
    Bool.false_ne_true (hf.symm.trans ha)

theorem listenerEdge_taken (hk : (s.probes.listeners.get p).armed = true)
    (ha : (s.probes.listeners.get p).edge.admits pol = true) (ho : (s.probes.listeners.get p).owner = some t) :
    listenerEdge p pol e s = handOutcome t (.edge e) (withListener p (s.probes.listeners.get p).disarm s) := by
  unfold listenerEdge
  simp only [hk, ha, ho, and_self, if_true, modListener_eq]

theorem exec_timeoutExpiry (p : ProbeId) (h : s.counting = true) :
    exec (.timeoutExpiry p) s = .next (servePort (timeoutEvent p s)) :=
  congrArg Host.Outcome.next (tickEvent_counting (timeoutEvent p) h)

variable (hk : (s.probes.listeners.get p).armed = true) (hi : (s.probes.listeners.get p).timeout = some i)
  (hdue : i ≤ s.now) (ho : (s.probes.listeners.get p).owner = some t)
include hk hi hdue ho

theorem timeoutEvent_skip (hp : (s.probes.listeners.get p).policy = .skip) :
    timeoutEvent p s = handOutcome t .timeoutSkip (withListener p (s.probes.listeners.get p).disarm s) := by
  unfold timeoutEvent
  simp only [hk, hi, ho, hp, reached_some hdue, and_self, if_true, modListener_eq]

theorem timeoutEvent_fault (hp : (s.probes.listeners.get p).policy = .fault) :
    timeoutEvent p s =
      handTimeoutFault t i
        (raiseFault .awaitTimeout ⟨some t, 0, some p, (s.probes.listeners.get p).origin.segment,
          some (s.probes.listeners.get p).origin.index, (s.probes.listeners.get p).origin.pass, i⟩)
        (withListener p (s.probes.listeners.get p).disarm s) := by
  unfold timeoutEvent
  simp only [hk, hi, ho, hp, reached_some hdue, and_self, if_true, modListener_eq, Option.getD_some]

end

/-- Settles O35: an edge at the listener disarms it and hands its owner the time, which the engine takes in AWAITING. -/
theorem edgeAtListener : Obligations.EdgeAtListener := by
  intro s p hc
  refine ⟨exec_probeEdge .windowOnly p hc, exec_probeEdge .listenerOnly p hc, exec_probeEdge .windowThenListener p hc,
    exec_probeEdge .listenerThenWindow p hc, handWindowEdge_none, handListenerEdge_none, fun pol hedge => ?edge,
    fun t => takeOutcome_none, fun t o => takeOutcome_other, fun t e he => takeOutcome_anchor (.inl he),
    fun t a => takeOutcome_taken⟩
  case edge =>
    intro k u v
    rw [handListenerEdge_some hedge]
    refine ⟨fun h => listenerEdge_ignored (s := u) h, fun hk ha t ho => ?_⟩
    have htaken := listenerEdge_taken (s := u) (e := s.timebase.count) hk ha ho
    exact ⟨fun hs => htaken.trans (handOutcome_awaiting (s := v) hs), fun hs => htaken.trans (handOutcome_other (s := v) hs)⟩

/-- Settles O36: a timeout that is due disarms the listener and hands its owner the outcome of its policy. -/
theorem timeoutExpires : Obligations.TimeoutExpires := by
  intro s p hc k v
  rw [exec_timeoutExpiry p hc]
  refine ⟨fun t i hk hi hdue ho hs => ⟨fun hp => ?fault, fun hp => ?skip⟩, fun t i hi => takeOutcome_anchor (.inr hi),
    fun t => takeOutcome_skip, fun t i hk hi hdue ho hs => ⟨fun hp => ?faultAside, fun hp => ?skipAside⟩, fun h => ?notDue⟩
  case fault =>
    intro r
    rw [timeoutEvent_fault hk hi hdue ho hp]
    exact congrArg (fun x => Host.Outcome.next (servePort x)) (handTimeoutFault_awaiting (s := v) hs)
  case skip =>
    rw [timeoutEvent_skip hk hi hdue ho hp]
    exact congrArg (fun x => Host.Outcome.next (servePort x)) (handOutcome_awaiting (s := v) hs)
  case faultAside =>
    rw [timeoutEvent_fault hk hi hdue ho hp]
    exact congrArg (fun x => Host.Outcome.next (servePort x)) (handTimeoutFault_other (s := v) hs)
  case skipAside =>
    rw [timeoutEvent_skip hk hi hdue ho hp]
    exact congrArg (fun x => Host.Outcome.next (servePort x)) (handOutcome_other (s := v) hs)
  case notDue =>
    rw [timeoutEvent_before fun hk => reached_of_not_due (h.resolve_left fun hf => Bool.false_ne_true (hf.symm.trans hk))]

end Sys2Proof.Machine.ProbeBankEvents
end

section
/-! SUPPORT. The Due Queue: dispatch (R53 to R55), its notices (R33) and insertion (R46 to R52). -/

namespace Sys2Proof.Machine.DueQueueEvents

open Sys2Proof.Machine.Laws

variable {s : State} {e : Entry} {es : List Entry} {t : TrackId} {a : Address}

/-! ## NOTIFY (R59) -/

theorem notifyEffect_raises {h : HandOff} (hn : h.notify = true) (ha : h.action.notifies = true) (s : State) :
    notifyEffect h s = withCause .mark s := if_pos ⟨hn, ha⟩

theorem notifyEffect_silent {h : HandOff} (hn : h.notify = false ∨ h.action.notifies = false) (s : State) :
    notifyEffect h s = s :=
  if_neg fun ⟨h1, h2⟩ => hn.elim (fun hf => Bool.false_ne_true (hf.symm.trans h1)) fun hf =>
    Bool.false_ne_true (hf.symm.trans h2)

theorem notifies_iff (a : Action) :
    a.notifies = true ↔
      (∀ tag, a ≠ .mark tag) ∧ ∀ p e b cap lim span q, a ≠ .openWindow p e b cap lim span q := by
  cases a <;> simp [Action.notifies]

/-! ## Dispatch (R53 to R55) -/

theorem modQueue_takeHead (h : s.queue.entries = e :: es) :
    (s.modQueue fun q => { q with entries := q.entries.tail, inHand := some e }) =
      { s with queue := { s.queue with entries := es, inHand := some e } } := by
  simp only [State.modQueue, h, List.tail_cons]

theorem dispatchEntry_halted (h : s.queue.entries = e :: es)
    (hu : (notifyEffect e.handOff (handAction e.handOff
      { s with queue := { s.queue with entries := es, inHand := some e } })).queue.inHand = none) :
    dispatchEntry e s = notifyEffect e.handOff (handAction e.handOff
      { s with queue := { s.queue with entries := es, inHand := some e } }) := by
  unfold dispatchEntry
  simp only [modQueue_takeHead h, hu, Option.isSome_none, Bool.false_eq_true, if_false]

theorem dispatchEntry_noticed (h : s.queue.entries = e :: es)
    (hu : (notifyEffect e.handOff (handAction e.handOff
      { s with queue := { s.queue with entries := es, inHand := some e } })).queue.inHand ≠ none) :
    let u := notifyEffect e.handOff (handAction e.handOff
      { s with queue := { s.queue with entries := es, inHand := some e } })
    dispatchEntry e s = dispatchNotice e.track e.segment { u with queue := { u.queue with inHand := none } } := by
  unfold dispatchEntry
  simp only [modQueue_takeHead h]
  exact if_pos (Option.isSome_iff_ne_none.mpr hu)

theorem dispatchEntry_count (e : Entry) (s : State) : (dispatchEntry e s).timebase.count = s.timebase.count :=
  (part_keeps (dispatchEntry_moves (s₀ := s) e .refl)).1

theorem dispatchEvent_notDue (h : ∀ e, s.queue.entries.head? = some e → s.timebase.count < e.due) : dispatchEvent s = s :=
  dispatchEvent_before fun e es he => h e (by rw [he]; rfl)

/-- Where only the head is due, it alone is dispatched. -/
theorem dispatchEvent_one (h : s.queue.entries = e :: es) (hd : e.due ≤ s.timebase.count)
    (hes : ∀ x ∈ es, s.timebase.count < x.due) : dispatchEvent s = dispatchEntry e s := by
  rw [dispatchEvent_head h hd]
  refine dispatchEvent_notDue fun x hx => ?_
  have hsub := dispatchEntry_entries e s
  rw [h, List.tail_cons] at hsub
  rw [dispatchEntry_count]
  exact hes x (hsub.subset (List.mem_of_mem_head? hx))

theorem exec_dispatchEvent (h : s.counting = true) :
    exec .dispatchEvent s = .next (servePort (dispatchEvent s)) :=
  congrArg Host.Outcome.next (tickEvent_counting dispatchEvent h)

/-- Settles O37: the head is dispatched while it is due, its notice given unless a halt has given it. -/
theorem dispatchTakesHead : Obligations.DispatchTakesHead := by
  refine ⟨fun _ => rfl, fun h v => ⟨fun hn hm ho => notifyEffect_raises hn ((notifies_iff _).mpr ⟨hm, ho⟩) v,
    fun hn => notifyEffect_silent (hn.imp_right fun hk => ?silent) v⟩, fun s e es h hd => ?head,
    fun s => dispatchEvent_notDue, fun s hc => ⟨exec_dispatchEvent hc, fun hn => ?notDue, fun e es h hd hes => ?one⟩⟩
  case silent =>
    rw [← Bool.not_eq_true, notifies_iff]
    rcases hk with ⟨tag, hk⟩ | ⟨p, e, b, cap, lim, span, q, hk⟩
    · exact fun hall => hall.1 tag hk
    · exact fun hall => hall.2 p e b cap lim span q hk
  case head =>
    intro u v
    rw [dispatchEvent_head h hd]
    by_cases hu : u.queue.inHand = none
    · exact congrArg dispatchEvent ((dispatchEntry_halted h hu).trans (if_pos hu).symm)
    · exact congrArg dispatchEvent ((dispatchEntry_noticed h hu).trans (if_neg hu).symm)
  case notDue => rw [exec_dispatchEvent hc, dispatchEvent_notDue hn]
  case one =>
    intro u
    rw [exec_dispatchEvent hc, dispatchEvent_one h hd hes]
    exact ⟨fun hu => congrArg (fun x => Host.Outcome.next (servePort x)) (dispatchEntry_noticed h hu),
      fun hu => congrArg (fun x => Host.Outcome.next (servePort x)) (dispatchEntry_halted h hu)⟩

/-- In an ordered queue a dispatch event takes every entry that is due, and none enters (R46, R53). -/
theorem dispatchEvent_leaves (n : Nat) (s : State) (hn : s.queue.entries.length ≤ n) (hs : QueueInv s) :
    (dispatchEvent s).timebase.count = s.timebase.count ∧
      ∀ x ∈ (dispatchEvent s).queue.entries, x ∈ s.queue.entries ∧ s.timebase.count < x.due := by
  induction n generalizing s with
  | zero =>
    have hnil : s.queue.entries = [] := List.length_eq_zero_iff.mp (Nat.le_zero.mp hn)
    rw [dispatchEvent_notDue (by simp [hnil])]
    simp [hnil]
  | succ n ih =>
    cases h : s.queue.entries with
    | nil =>
      rw [dispatchEvent_notDue (by simp [h])]
      simp [h]
    | cons e es =>
      have hsub := dispatchEntry_entries e s
      rw [h, List.tail_cons] at hsub
      unfold QueueInv at hs
      rw [h, List.pairwise_cons] at hs
      by_cases hd : e.due ≤ s.timebase.count
      · rw [dispatchEvent_head h hd]
        rw [h] at hn
        obtain ⟨hcount, hmem⟩ := ih (dispatchEntry e s) (hsub.length_le.trans (Nat.le_of_succ_le_succ hn))
          (hs.2.sublist hsub)
        rw [dispatchEntry_count] at hcount hmem
        exact ⟨hcount, fun x hx => ⟨List.mem_cons_of_mem _ (hsub.subset (hmem x hx).1), (hmem x hx).2⟩⟩
      · have hlt : s.timebase.count < e.due := BitVec.not_le.mp hd
        rw [dispatchEvent_notDue (by rw [h]; rintro x hx; cases hx; exact hlt), h]
        refine ⟨rfl, fun x hx => ⟨hx, ?_⟩⟩
        rcases List.mem_cons.mp hx with rfl | hx
        · exact hlt
        · exact BitVec.lt_def.mpr (Nat.lt_of_lt_of_le (BitVec.lt_def.mp hlt) (BitVec.le_def.mp (hs.1 x hx).1))

/-- Settles O38: the queue after the event is part of what the dispatches leave, and the grants change none of it. -/
theorem dispatchLeavesNothingDue : Obligations.DispatchLeavesNothingDue := by
  intro s hc hs
  refine ⟨_, exec_dispatchEvent hc, fun e he => ?_⟩
  have hgrants := part_keeps (servePort_moves (w := .part) (s₀ := dispatchEvent s) .refl)
  exact (dispatchEvent_leaves _ s (Nat.le_refl _) hs).2 e (hgrants.2.2.2.1.subset he)

end Sys2Proof.Machine.DueQueueEvents
end

section
/-! SUPPORT. Dispatch notices (R33, R37) and insertion (R46 to R52). -/

namespace Sys2Proof.Machine.DueQueueEvents

open Sys2Proof.Machine.Laws

variable {s : State} {t : TrackId} {a : Address} {r : Insertion}

/-! ## Dispatch notices (R33, R37) -/

theorem withTrack_queued {k : Track} (h : k.queued = (s.tracks.get t).queued) :
    ((withTrack t k s).tracks.get t).queued = (s.tracks.get t).queued := by
  rw [withTrack_get_self, h]

theorem releasePending_queued : ((releasePending t s).tracks.get t).queued = (s.tracks.get t).queued := by
  cases h : (s.tracks.get t).pendingLink with
  | none => rw [releasePending_none h]
  | some y =>
    rw [releasePending_some h, withRequest_tracks]
    exact withTrack_queued rfl

/-- A retirement leaves the queued count (R34). -/
theorem retireIfDone_queued : ((retireIfDone t a s).tracks.get t).queued = (s.tracks.get t).queued := by
  cases h : (s.tracks.get t).findOpen a with
  | none => rw [retireIfDone_absent h]
  | some r =>
    rw [retireIfDone_open h]
    split
    · rw [retireSegment_eq, releasePending_queued]
      split <;> exact withTrack_queued rfl
    · rfl

theorem releaseQuotaStall_idle (h : (s.tracks.get t).stallQuota = false) : releaseQuotaStall t s = s := by
  unfold releaseQuotaStall
  exact if_neg fun hc => Bool.false_ne_true (h.symm.trans hc.1)

/-- A stall on quota that ends reads the next action (R15). -/
theorem releaseQuotaStall_reads (hstate : (s.tracks.get t).state = .active) (hfetch : (s.tracks.get t).fetch.isSome = true)
    (hquota : (s.tracks.get t).stallQuota = true) (hseg : (s.tracks.get t).stallSegments = false)
    (hport : (s.tracks.get t).stallPort = false) (hroom : (s.tracks.get t).queued < (s.tracks.get t).quota) :
    releaseQuotaStall t s =
      withRequest t (.action (s.tracks.get t).segment (s.tracks.get t).cursor (s.tracks.get t).pass
          (s.tracks.get t).readGeneration)
        (withTrack t { s.tracks.get t with stallQuota := false, stallPort := true } s) := by
  unfold releaseQuotaStall
  refine (if_pos ⟨hquota, hroom⟩).trans ?_
  rw [modTrack_eq, fetchNext_request, requestAction_eq]
  · simp only [withTrack_get_self, withTrack_withTrack]
  · simpa only [withTrack_get_self] using hstate
  · simpa only [withTrack_get_self] using hfetch
  · simp [Track.unstalled, hseg, hport]
  · simpa only [withTrack_get_self] using hroom

theorem countDispatched_eq :
    countDispatched t a s =
      withTrack t
        { s.tracks.get t with
          queued := (s.tracks.get t).queued - 1
          dispatchedTotal := (s.tracks.get t).dispatchedTotal + 1
          openList := (s.tracks.get t).openList.map fun r =>
            if r.address = a then
              { r with outstanding := r.outstanding - 1, dispatched := succ32Sat r.dispatched }
            else r } s := rfl

/-- Settles O39: the drain ends where the notice leaves a CLOSING track nothing queued; a retirement changes neither. -/
theorem dispatchNoticeCounts : Obligations.DispatchNoticeCounts := by
  intro s t a k c
  refine ⟨fun hq => ⟨fun hmore => ?more, fun hclosing hlast => ?last⟩, fun hactive hfetch hq hseg hport hroom => ?stall⟩
  case more =>
    unfold dispatchNotice
    rw [countDispatched_eq, releaseQuotaStall_idle (by rw [withTrack_get_self]; exact hq)]
    refine if_neg fun ⟨hclosing, hnone⟩ => ?_
    rw [retireIfDone_state, withTrack_get_self] at hclosing
    rw [retireIfDone_queued, withTrack_get_self] at hnone
    rcases hmore with hmore | hmore
    · exact hmore hclosing
    · exact absurd (Nat.sub_eq_zero_iff_le.mp hnone) (Nat.not_le.mpr hmore)
  case last =>
    unfold dispatchNotice
    rw [countDispatched_eq, releaseQuotaStall_idle (by rw [withTrack_get_self]; exact hq)]
    refine if_pos ⟨?_, ?_⟩
    · rw [retireIfDone_state, withTrack_get_self]
      exact hclosing
    · rw [retireIfDone_queued, withTrack_get_self]
      exact Nat.sub_eq_zero_iff_le.mpr hlast
  case stall =>
    unfold dispatchNotice
    rw [countDispatched_eq, releaseQuotaStall_reads (by rwa [withTrack_get_self]) (by rwa [withTrack_get_self])
      (by rwa [withTrack_get_self]) (by rwa [withTrack_get_self]) (by rwa [withTrack_get_self])
      (by rwa [withTrack_get_self])]
    simp only [withTrack_get_self, withTrack_withTrack]
    refine if_neg fun ⟨hclosing, _⟩ => ?_
    rw [retireIfDone_state, withRequest_tracks, withTrack_get_self] at hclosing
    exact TrackState.noConfusion (hactive.symm.trans hclosing)

/-! ## Insertion (R46 to R52) -/

theorem isAwait_iff (a : Action) : a.isAwait = true ↔ ∃ p e span pol, a = .await p e span pol := by
  cases a <;> simp [Action.isAwait]

theorem isDriving_iff (a : Action) :
    a.isDriving = true ↔ a = .set ∨ a = .clear ∨ a = .toggle ∨ ∃ d w, a = .pulse d w := by
  cases a <;> simp [Action.isDriving]

theorem probe_iff (a : Action) (p : ProbeId) :
    a.probe = some p ↔
      (∃ e b cap lim span q, a = .openWindow p e b cap lim span q) ∨ a = .closeWindow p ∨
        ∃ e span pol, a = .await p e span pol := by
  cases a <;> simp [Action.probe, eq_comm]

theorem enterAwaiting_other (h : r.action.isAwait = false) : enterAwaiting r s = s :=
  if_neg (ne_true_of_eq_false h)

theorem enterAwaiting_await (h : r.action.isAwait = true) :
    enterAwaiting r s = formStatus r.track (setTrackState r.track .awaiting s) := if_pos h

theorem enterAwaiting_count (r : Insertion) (s : State) :
    (enterAwaiting r s).timebase.count = s.timebase.count :=
  (part_keeps (enterAwaiting_moves (w := .part) (s₀ := s) r .refl)).1

theorem insertAction_runLate (h : r.due ≤ s.timebase.count) (hpol : r.policy = .runLate) :
    insertAction r s = runLate r (resolveTarget s.gangs r.target) s := by
  unfold insertAction
  exact (if_pos h).trans (by rw [hpol])

theorem insertAction_dropLate (h : r.due ≤ s.timebase.count) (hpol : r.policy = .dropLate) :
    insertAction r s = dropLate r (resolveTarget s.gangs r.target) s := by
  unfold insertAction
  exact (if_pos h).trans (by rw [hpol])

/-- A request that meets no same-time driving entry enters the queue (R46, R51). -/
theorem insertAction_enters (h : s.timebase.count < r.due)
    (hfree : r.action.isDriving = true → collisionSet s.queue.entries r.due (resolveTarget s.gangs r.target) = 0) :
    insertAction r s = enqueue r (resolveTarget s.gangs r.target) s := by
  unfold insertAction
  refine (if_neg (BitVec.not_le.mpr h)).trans (if_pos ?_)
  split
  · next hd => exact hfree hd
  · rfl

theorem insertAction_collides (h : s.timebase.count < r.due) (hd : r.action.isDriving = true)
    (hmeets : collisionSet s.queue.entries r.due (resolveTarget s.gangs r.target) ≠ 0) :
    insertAction r s = dropCollided r (resolveTarget s.gangs r.target)
      (collisionSet s.queue.entries r.due (resolveTarget s.gangs r.target)) s := by
  unfold insertAction
  simp only [hd, if_true]
  exact (if_neg (BitVec.not_le.mpr h)).trans (if_neg hmeets)

theorem collisionSet_ne_zero (es : List Entry) (d : Instant) (S : LaneSet) :
    collisionSet es d S ≠ 0 ↔ ∃ e ∈ es, e.action.isDriving = true ∧ e.due = d ∧ e.lanes &&& S ≠ 0 := by
  rw [ne_eq, collisionSet_eq_zero]
  simp only [not_forall, exists_prop]

/-- The late fault is raised at the instant of the event, whatever the hand-off did (R50). -/
theorem runLate_eq (r : Insertion) (S : LaneSet) (s : State) :
    runLate r S s = raiseFault .late (lateContext r S s.timebase.count)
      (notifyEffect (r.handOff S) (handAction (r.handOff S) (enterAwaiting r (countRanLate r.track r.segment s)))) := by
  have hnow : (notifyEffect (r.handOff S) (handAction (r.handOff S)
      (enterAwaiting r (countRanLate r.track r.segment s)))).now = s.timebase.count :=
    (handOff_count _ _).trans (enterAwaiting_count _ _)
  unfold runLate
  simp only [hnow]

/-- In an ordered queue the new entry stands after those due no later (R45, R46). -/
theorem enqueue_eq (r : Insertion) (S : LaneSet) (hs : QueueInv s) :
    enqueue r S s = enterAwaiting r (withTrack r.track
      { s.tracks.get r.track with
        queued := (s.tracks.get r.track).queued + 1
        openList := (s.tracks.get r.track).openList.map fun x =>
          if x.address = r.segment then { x with outstanding := x.outstanding + 1 } else x }
      { s with queue := { s.queue with
          entries := s.queue.entries.filter (fun x => decide (x.due ≤ r.due)) ++
            r.entry S s.queue.insertion :: s.queue.entries.filter (fun x => decide (r.due < x.due))
          insertion := add64 s.queue.insertion 1 } }) := by
  have hplace := insertEntry_place (r.entry S s.queue.insertion) s.queue.entries hs
  unfold enqueue State.modQueue
  simp only [hplace]
  rfl

/-- Settles O40, by the branches of insertion: late, met by a same-time driving entry, entered. -/
theorem insertionTaken : Obligations.InsertionTaken := by
  refine ⟨isAwait_iff, fun t st v hst => (setTrackState_eq v t st).trans (by rw [enter_other _ hst]),
    fun gs => ⟨fun l i => (laneIn_single l i).trans (decide_eq_decide.mpr eq_comm), fun _ => rfl, fun _ => rfl, rfl⟩, isDriving_iff, probe_iff, fun s r => ?_⟩
  intro k S h dropped ran late meets
  refine ⟨fun hlate hpol ha => ?ran, fun hlate hpol ha => ?ranAwait, fun hlate hpol => ?dropped,
    fun hdue hd hm => ⟨collisionSet s.queue.entries r.due S, fun l => ?bits, ?collided⟩, fun hdue hm hs => ?entered⟩
  case ran =>
    rw [insertAction_runLate hlate hpol]
    exact (runLate_eq r S s).trans (by rw [enterAwaiting_other ha]; rfl)
  case ranAwait =>
    rw [insertAction_runLate hlate hpol]
    exact (runLate_eq r S s).trans (by rw [enterAwaiting_await ha]; rfl)
  case dropped =>
    rw [insertAction_dropLate hlate hpol]
    rfl
  case bits => exact collisionSet_bit _ _ _ _
  case collided => exact insertAction_collides hdue hd ((collisionSet_ne_zero _ _ _).mpr hm)
  case entered =>
    have hin : insertAction r s = enqueue r S s := by
      refine insertAction_enters hdue fun hd => by_contra fun hc => ?_
      rcases hm with hm | hm
      · exact Bool.false_ne_true (hm.symm.trans hd)
      · exact hm ((collisionSet_ne_zero _ _ _).mp hc)
    intro e queued
    have he : r.entry S s.queue.insertion = e := by
      cases hg : r.target <;> simp only [Insertion.entry, Target.gangOf, e, hg]
    rw [enqueue_eq r S hs, he] at hin
    exact ⟨fun ha => hin.trans (enterAwaiting_other ha), fun ha => hin.trans (enterAwaiting_await ha)⟩

end Sys2Proof.Machine.DueQueueEvents
end

section
/-! SUPPORT. The completions of the writes and of the reads that are no longer awaited (R34, R96, R99, R124, R140, R142,
R143, R145 to R147). -/

namespace Sys2Proof.Machine.AccessCompletions

open Sys2Proof.Machine.Laws Sys2Proof.Machine.ProbeBankEvents

variable {s : State} {x : Address} {t : TrackId} {a : Address} {p g : Word32}

/-! ## The access in flight lands, and its requester takes the outcome (R130) -/

theorem exec_retireWriteDone {i : RetireRecord} (h : InFlightIs s (.track t (.retire a i)) x) (r : WriteResult) :
    exec (.retireWriteDone r) s =
      .next (servePort (retireDone t a r (landAccess ⟨.track t (.retire a i), x, false⟩ (WriteResult.isStored r) s))) :=
  congrArg Host.Outcome.next (completeAccess_taken h rfl)

theorem exec_captureRecordWriteDone {c : CaptureRecord} (h : InFlightIs s (.capture c) x) (r : WriteResult) :
    exec (.captureRecordWriteDone r) s =
      .next (servePort (captureDone c.probe r (landAccess ⟨.capture c, x, false⟩ (WriteResult.isStored r) s))) :=
  congrArg Host.Outcome.next (completeAccess_taken h rfl)

theorem exec_bucketSummaryWriteDone {w : BucketSummary} (h : InFlightIs s (.bucketSummary w) x) (r : WriteResult) :
    exec (.bucketSummaryWriteDone r) s =
      .next (servePort (bucketSummaryDone w.probe r (landAccess ⟨.bucketSummary w, x, false⟩ (WriteResult.isStored r) s))) :=
  congrArg Host.Outcome.next (completeAccess_taken h rfl)

theorem exec_incidentWriteDone {w : IncidentWrite} (h : InFlightIs s (.incident w) x) (r : WriteResult) :
    exec (.incidentWriteDone r) s =
      .next (servePort (incidentDone w.slot x r (landAccess ⟨.incident w, x, false⟩ (WriteResult.isStored r) s))) :=
  congrArg Host.Outcome.next (completeAccess_taken h rfl)

theorem exec_resultWriteDone {d : DirectiveResult} (h : InFlightIs s (.out (.result d)) x) (r : WriteResult) :
    exec (.resultWriteDone r) s =
      .next (servePort (resultDone x r (landAccess ⟨.out (.result d), x, false⟩ (WriteResult.isStored r) s))) :=
  congrArg Host.Outcome.next (completeAccess_taken h rfl)

theorem exec_summaryWriteDone {y n i} (h : InFlightIs s (.out (.summary y n i)) x) (r : WriteResult) :
    exec (.summaryWriteDone r) s =
      .next (servePort (summaryDone x r (landAccess ⟨.out (.summary y n i), x, false⟩ (WriteResult.isStored r) s))) :=
  congrArg Host.Outcome.next (completeAccess_taken h rfl)

theorem exec_statusWriteDone {i} (h : InFlightIs s (.out (.status t i)) x) (r : WriteResult) :
    exec (.statusWriteDone r) s =
      .next (servePort (statusDone t x r (landAccess ⟨.out (.status t i), x, false⟩ (WriteResult.isStored r) s))) :=
  congrArg Host.Outcome.next (completeAccess_taken h rfl)

theorem exec_headerReadDone (h : InFlightIs s (.track t (.header a p g)) x) (r : ReadResult 256) :
    exec (.headerReadDone r) s = .next (servePort (headerDone t a p g r (released s))) :=
  congrArg Host.Outcome.next (completeAccess_taken h rfl)

theorem exec_actionReadDone {i : Nat} (h : InFlightIs s (.track t (.action a i p g)) x) (r : ReadResult 256) :
    exec (.actionReadDone r) s = .next (servePort (actionDone t a i p g r (released s))) :=
  congrArg Host.Outcome.next (completeAccess_taken h rfl)

theorem exec_linkWordReadDone {m : Bool} (h : InFlightIs s (.track t (.link a m p g)) x) (r : ReadResult 64) :
    exec (.linkWordReadDone r) s = .next (servePort (linkDone t a m p g r (released s))) :=
  congrArg Host.Outcome.next (completeAccess_taken h rfl)

/-! ## A capture record leaves the queue (R99) -/

/-- The state with the record at the head of the capture queue gone and its window's count of waiting records down by one. -/
def captureGone (q : ProbeId) (s : State) : State :=
  withWindow q { s.probes.windows.get q with pending := (s.probes.windows.get q).pending - 1 }
    { s with probes := { s.probes with captures := s.probes.captures.tail } }

theorem captureGone_window (q : ProbeId) (s : State) :
    (captureGone q s).probes.windows.get q =
      { s.probes.windows.get q with pending := (s.probes.windows.get q).pending - 1 } := by
  unfold captureGone
  rw [withWindow_get_self]

theorem captureDone_eq (q : ProbeId) (r : WriteResult) (s : State) :
    captureDone q r s = writeFault r (windowContext q (s.probes.windows.get q) s.now)
      (if ((captureGone q s).probes.windows.get q).state = .closing ∧ ((captureGone q s).probes.windows.get q).pending = 0
        then requestBucketSummary q (captureGone q s) else captureGone q s) := rfl

theorem captureDone_waiting {q : ProbeId}
    (h : (s.probes.windows.get q).state ≠ .closing ∨ 1 < (s.probes.windows.get q).pending) (r : WriteResult) :
    captureDone q r s = writeFault r (windowContext q (s.probes.windows.get q) s.now) (captureGone q s) := by
  rw [captureDone_eq, captureGone_window, if_neg]
  rintro ⟨hclosing, hnone⟩
  rcases h with h | h
  · exact h hclosing
  · exact absurd (Nat.sub_eq_zero_iff_le.mp hnone) (Nat.not_le.mpr h)

/-- The last record of a CLOSING window requests its summary (R95). -/
theorem captureDone_last {q : ProbeId} {c : CloseCause} (hw : (s.probes.windows.get q).state = .closing)
    (hp : (s.probes.windows.get q).pending = 1) (hc : (s.probes.windows.get q).cause = some c) (r : WriteResult) :
    captureDone q r s = writeFault r (windowContext q (s.probes.windows.get q) s.now)
      { captureGone q s with port := { s.port with summaries := s.port.summaries ++
        [⟨q, (s.probes.windows.get q).bucket, (s.probes.windows.get q).header q c⟩] } } := by
  have hcause : ((captureGone q s).probes.windows.get q).cause = some c := by
    rw [captureGone_window]
    exact hc
  rw [captureDone_eq, if_pos, requestBucketSummary_eq hcause, captureGone_window]
  · rfl
  · rw [captureGone_window]
    exact ⟨hw, Nat.sub_eq_zero_iff_le.mpr hp.le⟩

/-! ## The statements, by the class of the access -/

theorem landAccess_success (y : PortAccess) (x : Address) (s : State) :
    landAccess ⟨y, x, false⟩ (WriteResult.isStored .stored) s = stored x y.bytes (released s) := rfl

theorem landAccess_failure (y : PortAccess) (x : Address) (s : State) :
    landAccess ⟨y, x, false⟩ (WriteResult.isStored .error) s = released s := rfl

theorem bytes_summary (c : Word32) (n : Instant) (i : SummaryImage) :
    (PortAccess.out (.summary c n i)).bytes = summaryBytes c n i := rfl

theorem bytes_status (t : TrackId) (i : StatusImage) : (PortAccess.out (.status t i)).bytes = i.bytes := rfl

theorem bytes_result (d : DirectiveResult) : (PortAccess.out (.result d)).bytes = d.bytes := rfl

theorem bytes_incident (w : IncidentWrite) : (PortAccess.incident w).bytes = w.incident.bytes := rfl

theorem bytes_bucketSummary (w : BucketSummary) : (PortAccess.bucketSummary w).bytes = w.header.bytes := rfl

theorem bytes_capture (r : CaptureRecord) : (PortAccess.capture r).bytes = r.bytes := rfl

theorem bytes_retire (t : TrackId) (a : Address) (i : RetireRecord) :
    (PortAccess.track t (.retire a i)).bytes = i.bytes := rfl

/-- Settles O54: the record lands, and the requester takes the success. -/
theorem writesCompleted : Obligations.WritesCompleted := by
  intro s x
  refine ⟨fun t a r h => ?retire, fun g n i h => ?summary, fun t i h => ?status, fun r h => ?result,
    fun w h => ?incident, fun w h => ?bucket, fun r h => ⟨fun hw => ?waiting, fun c hw hp hc => ?last⟩⟩
  case retire =>
    rw [exec_retireWriteDone h, landAccess_success, bytes_retire]
    rfl
  case summary =>
    rw [exec_summaryWriteDone h, landAccess_success, bytes_summary]
    rfl
  case status =>
    rw [exec_statusWriteDone h, landAccess_success, bytes_status]
    rfl
  case result =>
    rw [exec_resultWriteDone h, landAccess_success, bytes_result]
    rfl
  case incident =>
    rw [exec_incidentWriteDone h, landAccess_success, bytes_incident]
    generalize w.incident.bytes = bs
    rfl
  case bucket =>
    rw [exec_bucketSummaryWriteDone h, landAccess_success, bytes_bucketSummary]
    generalize w.header.bytes = bs
    rfl
  case waiting =>
    rw [exec_captureRecordWriteDone h, landAccess_success, bytes_capture, captureDone_waiting (s := stored x _ (released s)) hw]
    generalize r.bytes = bs
    rfl
  case last =>
    rw [exec_captureRecordWriteDone h, landAccess_success, bytes_capture, captureDone_last (s := stored x _ (released s)) hw hp hc]
    generalize r.bytes = bs
    rfl

/-- Settles O55: nothing lands, and the requester takes the failure. -/
theorem failedAccesses : Obligations.FailedAccesses := by
  intro s x now area ofWindow u
  refine ⟨fun t a r h => ?retire, fun g n i h => ?summary, fun t i h => ?status, fun r h => ?result,
    fun w h => ?incident, fun w h => ?bucket, fun r h => ⟨fun hw => ?waiting, fun c hw hp hc => ?last⟩,
    fun t a p g h hd => ?header, fun t a i p g h hd => ?action, fun t a m p g h hd => ?link⟩
  case retire =>
    rw [exec_retireWriteDone h, landAccess_failure]
    rfl
  case summary =>
    rw [exec_summaryWriteDone h, landAccess_failure]
    rfl
  case status =>
    rw [exec_statusWriteDone h, landAccess_failure]
    rfl
  case result =>
    rw [exec_resultWriteDone h, landAccess_failure]
    rfl
  case incident =>
    rw [exec_incidentWriteDone h, landAccess_failure]
    rfl
  case bucket =>
    rw [exec_bucketSummaryWriteDone h, landAccess_failure]
    rfl
  case waiting =>
    rw [exec_captureRecordWriteDone h, landAccess_failure, captureDone_waiting (s := released s) hw]
    rfl
  case last =>
    rw [exec_captureRecordWriteDone h, landAccess_failure, captureDone_last (s := released s) hw hp hc]
    rfl
  case header =>
    rw [exec_headerReadDone h, headerDone_discarded (s := released s) hd]
    rfl
  case action =>
    rw [exec_actionReadDone h, actionDone_discarded (s := released s) hd]
    rfl
  case link =>
    rw [exec_linkWordReadDone h, linkDone_discarded (s := released s) hd]
    rfl

end Sys2Proof.Machine.AccessCompletions
end

section
/-! SUPPORT. Fetch going on (R15, R21, R28), entering a segment and retiring one (R16, R34, R35). -/

namespace Sys2Proof.Machine.SegmentFetch

open Sys2Proof.Machine.Laws Sys2Proof.Machine.ProbeBankEvents Sys2Proof.Machine.HandOffs

variable {s : State} {t : TrackId} {a b : Address} {f : FetchContext}

/-! ## The next action, the next pass, the link word (R21, R28) -/

theorem unstalled_iff (k : Track) :
    k.unstalled = true ↔ k.stallQuota = false ∧ k.stallSegments = false ∧ k.stallPort = false := by
  simp only [Track.unstalled, Bool.and_eq_true, Bool.not_eq_true', and_assoc]

/-- The track at the end of a pass: its segment's record counts it (R28). -/
def passEnded (k : Track) : Track :=
  k.modOpen k.segment fun r => { r with passes := succ32Sat r.passes }

theorem passEnded_eq (k : Track) :
    passEnded k = { k with
      openList := k.openList.map fun r => if r.address = k.segment then { r with passes := succ32Sat r.passes } else r } :=
  rfl

/-- After the last pass the link word is read (R28). -/
theorem endPass_link (hf : (s.tracks.get t).fetch = some f)
    (h : ¬(f.loop = false ∧ (s.tracks.get t).pass.toNat < f.repeatCount)) :
    endPass t s =
      requestLink t (f.loop && decide ((s.tracks.get t).pass.toNat < 2 ^ 32 - 1))
        (withTrack t (passEnded (s.tracks.get t)) s) :=
  (endPass_eq hf).trans (if_neg h)

/-- Before the last pass another one starts (R28). -/
theorem endPass_again (hf : (s.tracks.get t).fetch = some f) (hl : f.loop = false)
    (hp : (s.tracks.get t).pass.toNat < f.repeatCount) :
    endPass t s = fetchNext t (withTrack t
      { passEnded (s.tracks.get t) with
        pass := (s.tracks.get t).pass + 1, anchor := add64Held (s.tracks.get t).anchor f.period.toNat, cursor := 0 } s) := by
  refine ((endPass_eq hf).trans (if_pos ⟨hl, hp⟩)).trans ?_
  rw [startPass_eq (f := f) (by rw [withTrack_get_self]; exact hf), withTrack_get_self, withTrack_withTrack]
  rfl

theorem fetchNext_withTrack_request {k : Track} (h1 : k.state = .active) (h2 : k.fetch.isSome = true)
    (h3 : k.unstalled = true) (h4 : k.queued < k.quota) :
    fetchNext t (withTrack t k s) =
      withRequest t (.action k.segment k.cursor k.pass k.readGeneration) (withTrack t { k with stallPort := true } s) := by
  rw [fetchNext_request, requestAction_eq, withTrack_get_self, withTrack_withTrack] <;> rwa [withTrack_get_self]

theorem fetchNext_withTrack_stall {k : Track} (h1 : k.state = .active) (h2 : k.fetch.isSome = true)
    (h3 : k.unstalled = true) (h4 : k.quota ≤ k.queued) :
    fetchNext t (withTrack t k s) = withTrack t { k with stallQuota := true } s := by
  have h5 := Nat.not_lt.mpr h4
  rw [fetchNext_stall, withTrack_get_self, withTrack_withTrack] <;> rwa [withTrack_get_self]

/-- Settles O50, by the cursor, the passes left and the quota. -/
theorem fetchGoesOn : Obligations.FetchGoesOn := by
  refine ⟨unstalled_iff, fun a n => ⟨add64Held_fits, add64Held_exceeds⟩, fun c => ⟨succ32Sat_below, succ32Sat_full⟩,
    fun s t f => ?_⟩
  intro k n
  refine ⟨fun h => resumeFetch_idle fun hc => ?idle, fun hf hs hq hg hp => ?on⟩
  case idle =>
    rcases h with h | h
    · exact h hc.1
    · exact Bool.false_ne_true (h.symm.trans hc.2)
  case on =>
    have hu : k.unstalled = true := (unstalled_iff k).mpr ⟨hq, hg, hp⟩
    have hsome : k.fetch.isSome = true := by rw [hf]; rfl
    rw [resumeFetch_on hf hs hu]
    refine ⟨fun hc hr => ?request, fun hc hr => ?stall, fun hc hl hp hr => ?again, fun hc hl hp hr => ?againStall,
      fun hc hl hp => ?link, fun hc hl => ?loop⟩
    case request => rw [if_neg (Nat.not_le.mpr hc), fetchNext_request hs hsome hu hr, requestAction_eq]
    case stall => rw [if_neg (Nat.not_le.mpr hc), fetchNext_stall hs hsome hu (Nat.not_lt.mpr hr)]
    case again =>
      rw [if_pos hc, endPass_again hf hl hp]
      exact fetchNext_withTrack_request hs hsome hu hr
    case againStall =>
      rw [if_pos hc, endPass_again hf hl hp]
      exact fetchNext_withTrack_stall hs hsome hu hr
    case link =>
      rw [if_pos hc, endPass_link hf fun h => Nat.not_lt.mpr hp h.2, requestLink_eq, withTrack_get_self,
        withTrack_withTrack, hl]
      rfl
    case loop =>
      rw [if_pos hc, endPass_link hf fun h => Bool.false_ne_true (h.1.symm.trans hl), requestLink_eq, withTrack_get_self,
        withTrack_withTrack, hl]
      rfl

/-! ## Entry and retirement (R16, R34, R35) -/

theorem beginEntry_room (h : (s.tracks.get t).openList.length < 4) :
    beginEntry t a b s = withRequest t (.header a (s.tracks.get t).pass (s.tracks.get t).readGeneration)
      (withTrack t { s.tracks.get t with linkSource := b, segment := a, stallPort := true } s) := by
  have hroom : ({ s.tracks.get t with linkSource := b } : Track).openList.length < Config.openSegments := h
  unfold beginEntry
  simp only [modTrack_eq, withTrack_get_self, withTrack_withTrack, if_pos hroom, requestHeader_eq]

theorem beginEntry_full (h : 4 ≤ (s.tracks.get t).openList.length) :
    beginEntry t a b s =
      withTrack t { s.tracks.get t with linkSource := b, pendingLink := some a, stallSegments := true } s := by
  have hroom : ¬({ s.tracks.get t with linkSource := b } : Track).openList.length < Config.openSegments :=
    Nat.not_lt.mpr h
  unfold beginEntry
  simp only [modTrack_eq, withTrack_get_self, withTrack_withTrack, if_neg hroom]

theorem retireIfDone_kept {r : OpenSegment} (h : (s.tracks.get t).findOpen a = some r)
    (hr : r.fullyFetched = false ∨ r.outstanding ≠ 0) : retireIfDone t a s = s := by
  rw [retireIfDone_open h, if_neg]
  rintro ⟨hfetched, hnone⟩
  rcases hr with hr | hr
  · exact Bool.false_ne_true (hr.symm.trans hfetched)
  · exact hr hnone

theorem address_of_findOpen {k : Track} {r : OpenSegment} (h : k.findOpen a = some r) : r.address = a := by
  simpa using List.find?_some h

/-- A retirement without a pending link (R34, R35). -/
theorem retireSegment_noLink {cut : Bool} {r : OpenSegment} (h : (s.tracks.get t).pendingLink = none) :
    retireSegment t cut r s =
      withTrack t { s.tracks.get t with openList := (s.tracks.get t).openList.filter fun x => !(x.address == r.address) }
        (if r.notifyOnRetire = true ∨ (s.tracks.get t).retireNotifyAll = true then
          withCause .retired (withRequest t (.retire r.address (r.retireRecord cut s.now)) s)
        else withRequest t (.retire r.address (r.retireRecord cut s.now)) s) := by
  rw [retireSegment_eq, releasePending_none]
  rw [withTrack_get_self]
  exact h

/-- A retirement that leaves room to a pending link (R16). -/
theorem retireSegment_link {cut : Bool} {r : OpenSegment} {y : Address} (h : (s.tracks.get t).pendingLink = some y) :
    retireSegment t cut r s =
      withRequest t (.header y (s.tracks.get t).pass (s.tracks.get t).readGeneration)
        (withTrack t
          { s.tracks.get t with
            openList := (s.tracks.get t).openList.filter fun x => !(x.address == r.address)
            segment := y, pendingLink := none, stallSegments := false, stallPort := true }
          (if r.notifyOnRetire = true ∨ (s.tracks.get t).retireNotifyAll = true then
            withCause .retired (withRequest t (.retire r.address (r.retireRecord cut s.now)) s)
          else withRequest t (.retire r.address (r.retireRecord cut s.now)) s)) := by
  rw [retireSegment_eq, releasePending_some (y := y), withTrack_get_self, withTrack_withTrack]
  rw [withTrack_get_self]
  exact h

/-- Settles O51, by the room in the list and by the pending link. -/
theorem segmentEntryAndRetirement : Obligations.SegmentEntryAndRetirement := by
  intro s t a b k
  refine ⟨beginEntry_room, beginEntry_full, fun r hr => ⟨retireIfDone_kept hr, fun hfetched hnone => ?_⟩⟩
  have hdone : retireIfDone t a s = retireSegment t false r s := by
    rw [retireIfDone_open hr, if_pos ⟨hfetched, hnone⟩]
  obtain rfl : r.address = a := address_of_findOpen hr
  rw [hdone]
  exact ⟨fun hlink => retireSegment_noLink hlink, fun y hlink => retireSegment_link hlink⟩

end Sys2Proof.Machine.SegmentFetch
end

section
/-! SUPPORT. The header read (R17 to R20, R42). -/

namespace Sys2Proof.Machine.HeaderRead

open Sys2Proof.Machine.Laws Sys2Proof.Machine.AccessCompletions Sys2Proof.Machine.SegmentFetch

variable {s : State} {t : TrackId} {a x : Address} {p g : Word32} {k : Track} {h : Header} {b : BitVec 256}

/-! ## The codes of a header (spec 10.4) -/

/-- The code of an anchor mode. -/
def anchorCode : AnchorMode → Nat
  | .keep => 0
  | .set => 1
  | .frame => 2

theorem anchorMode_ofCode (c : Nat) (m : AnchorMode) : AnchorMode.ofCode c = some m ↔ c = anchorCode m := by
  constructor
  · intro hc
    unfold AnchorMode.ofCode at hc
    split at hc <;> cases hc <;> rfl
  · rintro rfl
    cases m <;> rfl

theorem anchorCode_le (m : AnchorMode) : anchorCode m ≤ 2 := by cases m <;> decide

theorem exists_anchorCode {c : Nat} (hc : c ≤ 2) : ∃ m, c = anchorCode m := by
  interval_cases c
  · exact ⟨.keep, rfl⟩
  · exact ⟨.set, rfl⟩
  · exact ⟨.frame, rfl⟩

/-- The code of a late policy. -/
def lateCode : LatePolicy → Nat
  | .runLate => 0
  | .dropLate => 1

theorem latePolicy_ofCode (c : Nat) (l : LatePolicy) : LatePolicy.ofCode c = some l ↔ c = lateCode l := by
  constructor
  · intro hc
    unfold LatePolicy.ofCode at hc
    split at hc <;> cases hc <;> rfl
  · rintro rfl
    cases l <;> rfl

theorem lateCode_le (l : LatePolicy) : lateCode l ≤ 1 := by cases l <;> decide

theorem exists_lateCode {c : Nat} (hc : c ≤ 1) : ∃ l, c = lateCode l := by
  interval_cases c
  · exact ⟨.runLate, rfl⟩
  · exact ⟨.dropLate, rfl⟩

/-! ## The checks (R17) -/

/-- The checks of the count, the repeats and the period. -/
def CountsValid (h : Header) : Prop :=
  h.actionCount ≠ 0 ∧ (h.loop = false → h.repeatCount ≤ 4095) ∧
    (0 < h.repeatCount ∨ h.loop = true → 0 < h.period.toNat ∧ h.period.toNat ≤ 2 ^ 48 - 1)

theorem repeats_iff (h : Header) : h.repeats = true ↔ 0 < h.repeatCount ∨ h.loop = true := by
  simp [Header.repeats, or_comm]

theorem countsValid_iff :
    CountsValid h ↔ h.actionCount ≠ 0 ∧ ¬(h.loop = false ∧ 4095 < h.repeatCount) ∧
      ¬(h.repeats = true ∧ (h.period.toNat = 0 ∨ 2 ^ 48 - 1 < h.period.toNat)) := by
  unfold CountsValid
  rw [repeats_iff]
  simp only [not_and, not_or, Nat.not_lt, Nat.pos_iff_ne_zero, ne_eq]

theorem check_iff (m : AnchorMode) (l : LatePolicy) :
    h.check = some (m, l) ↔ h.anchorMode = anchorCode m ∧ h.latePolicy = lateCode l ∧ CountsValid h := by
  rw [← anchorMode_ofCode, ← latePolicy_ofCode, countsValid_iff]
  unfold Header.check
  cases AnchorMode.ofCode h.anchorMode with
  | none => simp
  | some m' =>
    cases LatePolicy.ofCode h.latePolicy with
    | none => simp
    | some l' =>
      simp only
      split_ifs with hcount hmax hperiod
      · simp [hcount]
      · simp [hmax]
      · exact iff_of_false (by simp) fun ⟨_, _, _, _, hnot⟩ => hnot hperiod
      · simp only [hcount, hmax, hperiod, not_false_eq_true, and_true, ne_eq, Option.some.injEq, Prod.mk.injEq]

theorem findOpen_none : k.findOpen a = none ↔ ∀ r ∈ k.openList, r.address ≠ a := by
  simp [Track.findOpen]

theorem findOpen_isSome : (k.findOpen a).isSome = true ↔ ∃ r ∈ k.openList, r.address = a := by
  simp [Track.findOpen, List.find?_isSome]

theorem headerValid_iff (m : AnchorMode) (l : LatePolicy) :
    headerValid k a h = some (m, l) ↔
      (∀ r ∈ k.openList, r.address ≠ a) ∧ h.anchorMode = anchorCode m ∧ h.latePolicy = lateCode l ∧ CountsValid h := by
  unfold headerValid
  cases hopen : k.findOpen a with
  | none =>
    have hnone := findOpen_none.mp hopen
    rw [and_iff_right hnone, ← check_iff]
    rfl
  | some r =>
    have hsome : ∃ r ∈ k.openList, r.address = a := findOpen_isSome.mp (by rw [hopen]; rfl)
    simp only [Option.isSome_some, if_true, reduceCtorEq, false_iff, not_and]
    obtain ⟨r, hr, ha⟩ := hsome
    exact fun hall => absurd ha (hall r hr)

theorem headerValid_reentry (hr : ∃ r ∈ k.openList, r.address = a) : headerValid k a h = none :=
  if_pos (findOpen_isSome.mpr hr)

/-- Settles O45: a header is valid where its codes are of a mode and a policy and every other check of R17 passes. -/
theorem headerChecks : Obligations.HeaderChecks := by
  refine ⟨fun k a h => ⟨fun hv => ?valid, fun ⟨hcount, hmode, hlate, hrep, hspan, hopen⟩ => ?passes⟩,
    fun k a h m l hv => ?codes, fun b => rfl⟩
  case valid =>
    obtain ⟨⟨m, l⟩, hv⟩ := Option.ne_none_iff_exists'.mp hv
    obtain ⟨hopen, hmode, hlate, hcount, hrep, hspan⟩ := (headerValid_iff m l).mp hv
    exact ⟨hcount, hmode ▸ anchorCode_le m, hlate ▸ lateCode_le l, hrep, hspan, hopen⟩
  case passes =>
    obtain ⟨m, hm⟩ := exists_anchorCode hmode
    obtain ⟨l, hl⟩ := exists_lateCode hlate
    exact Option.ne_none_iff_exists'.mpr ⟨(m, l), (headerValid_iff m l).mpr ⟨hopen, hm, hl, hcount, hrep, hspan⟩⟩
  case codes =>
    obtain ⟨_, hmode, hlate, _⟩ := (headerValid_iff m l).mp hv
    exact ⟨hmode, hlate⟩

/-! ## A header accepted (R18) -/

theorem headerTaken_iff :
    headerTaken k a g = true ↔ k.state = .active ∧ k.segment = a ∧ k.fetch = none ∧ k.readGeneration = g := by
  simp [headerTaken, and_assoc]

/-- The track with a header accepted (R18). -/
def accepted (a : Address) (h : Header) (m : AnchorMode) (l : LatePolicy) (frame : Nat) (now : Instant) (k : Track) : Track :=
  { k with
    stallPort := false
    openList := k.openList ++ [⟨a, h.notifyOnRetire, 0, 0, 0, 0, false, false⟩]
    fetch := some ⟨h.actionCount, m, l, h.repeatCount, h.loop, h.period⟩
    cursor := 0
    pass := 0
    anchor := entryAnchor m h k frame now }

theorem headerDone_accepts {m : AnchorMode} {l : LatePolicy} (htaken : headerTaken (s.tracks.get t) a g = true)
    (hv : headerValid (s.tracks.get t) a (Header.ofRecord b) = some (m, l)) :
    headerDone t a p g (.data b) s = fetchNext t (withTrack t
      (accepted a (Header.ofRecord b) m l s.timebase.frame s.timebase.count (s.tracks.get t)) s) := by
  rw [headerDone_valid htaken hv]
  unfold acceptHeader
  rw [modTrack_eq, withTrack_get_self, withTrack_withTrack]
  cases m <;> rfl

theorem accepted_unstalled {m : AnchorMode} {l : LatePolicy} {f : Nat} {n : Instant} (hq : k.stallQuota = false)
    (hg : k.stallSegments = false) : (accepted a h m l f n k).unstalled = true :=
  (unstalled_iff _).mpr ⟨hq, hg, rfl⟩

/-- Settles O46: the accepted header leaves the track as `accepted`, and fetch goes on from there. -/
theorem headerAccepted : Obligations.HeaderAccepted := by
  refine ⟨fun _ _ _ => headerTaken_iff, fun s t a x p g b hf => ?_⟩
  intro k h
  refine ⟨fun hd => ?discarded, fun m l htaken hv hq hg => ?accepted⟩
  case discarded =>
    rw [exec_headerReadDone hf, headerDone_discarded (s := released s) hd]
    rfl
  case accepted =>
    obtain ⟨hstate, rfl, _, rfl⟩ := headerTaken_iff.mp htaken
    intro e
    have he : accepted k.segment h m l s.timebase.frame s.timebase.count k = e := by cases m <;> rfl
    have hu : e.unstalled = true := he ▸ accepted_unstalled hq hg
    have hdone : headerDone t k.segment p k.readGeneration (.data b) (released s) =
        fetchNext t (withTrack t e (released s)) := by
      rw [headerDone_accepts (s := released s) htaken hv]
      exact congrArg (fun e => fetchNext t (withTrack t e (released s))) he
    rw [exec_headerReadDone hf, hdone]
    refine ⟨fun hroom => ?_, fun hfull => ?_⟩
    · rw [fetchNext_withTrack_request (k := e) hstate rfl hu hroom]
    · rw [fetchNext_withTrack_stall (k := e) hstate rfl hu hfull]

/-! ## A header refused (R19, R20) -/

/-- The track with its entry into a segment refused: OFF at a head, PARKED on its predecessor elsewhere (R19). -/
def refused (a : Address) (k : Track) : Track :=
  if k.linkSource = 0 then
    { k with stallPort := false, stallQuota := false, stallSegments := false, state := .off, segment := 0 }
  else
    { k with
      stallPort := false, stallQuota := false, stallSegments := false, state := .parked
      segment := k.linkSource, rejectedLink := some a }

theorem refuseEntry_failed (s : State) :
    refuseEntry t a false s = formStatus t (withTrack t (refused a (s.tracks.get t)) s) := by
  unfold refuseEntry refused
  simp only [Bool.false_eq_true, if_false, setTrackState_eq, modTrack_eq, withTrack_get_self, withTrack_withTrack,
    enter_other _ (show TrackState.off ≠ .active by decide), enter_other _ (show TrackState.parked ≠ .active by decide)]
  split <;> rfl

/-- The read's stall is over when its refusal is taken (R15, R20). -/
theorem refuseEntry_after_failure (s : State) :
    refuseEntry t a false (withTrack t { s.tracks.get t with stallPort := false } s) =
      formStatus t (withTrack t (refused a (s.tracks.get t)) s) := by
  rw [refuseEntry_failed, withTrack_get_self, withTrack_withTrack]
  rfl

/-- REJECTED is written besides (R19). -/
theorem refuseEntry_after_reading (s : State) :
    refuseEntry t a true (withTrack t { s.tracks.get t with stallPort := false } s) =
      formStatus t (withRequest t (.retire a ⟨.rejected, 0, 0, 0, s.timebase.count⟩)
        (withTrack t (refused a (s.tracks.get t)) s)) :=
  refuseEntry_after_failure (requestTrack t (.retire a (rejectedRecord s.now)) s)

/-- Settles O47: a refused entry leaves the track as `refused`; REJECTED is written where no open record has the address. -/
theorem headerRefused : Obligations.HeaderRefused := by
  intro s t a x p g hf k htaken c e u
  refine ⟨fun b hv hopen => ?rejected, fun b hopen => ?reentry, ?failed⟩
  case rejected =>
    have hw : writesRejected k a = true := by
      unfold writesRejected
      rw [findOpen_none.mpr hopen]
      rfl
    rw [exec_headerReadDone hf, headerDone_invalid (s := released s) htaken hv]
    exact congrArg (fun z => Host.Outcome.next (servePort (raiseFault .badSegment c z)))
      ((congrArg (refuseEntry t a · _) hw).trans (refuseEntry_after_reading (released s)))
  case reentry =>
    have hw : writesRejected k a = false := by
      unfold writesRejected
      rw [findOpen_isSome.mpr hopen]
      rfl
    rw [exec_headerReadDone hf, headerDone_invalid (s := released s) htaken (headerValid_reentry hopen)]
    exact congrArg (fun z => Host.Outcome.next (servePort (raiseFault .badSegment c z)))
      ((congrArg (refuseEntry t a · _) hw).trans (refuseEntry_after_failure (released s)))
  case failed =>
    rw [exec_headerReadDone hf, headerDone_error (s := released s) htaken, refuseEntry_after_failure]
    rfl

end Sys2Proof.Machine.HeaderRead
end

section
/-! SUPPORT. Action records (R22, R23, spec 10.4) and the action read (R21, R24, R25). -/

namespace Sys2Proof.Machine.ActionRecord

open Sys2Proof.Machine.Laws

variable {b : BitVec 256} {a : Action} {g : Target}

/-! ## The codes of the operands -/

theorem indexIn_iff {n k : Nat} (i : Fin n) : indexIn n k = some i ↔ k = i.val := by
  unfold indexIn
  split
  · rw [Option.some.injEq, Fin.ext_iff]
  · next h => exact iff_of_false (by simp) fun hk => h (hk ▸ i.isLt)

/-- The code of a PULSE's level. -/
def driveCode : Drive → Nat
  | .low => 0
  | .high => 1

theorem drive_ofCode (c : Nat) (p : Drive) : Drive.ofCode c = some p ↔ c = driveCode p := by
  constructor
  · intro hc
    unfold Drive.ofCode at hc
    split at hc <;> cases hc <;> rfl
  · rintro rfl
    cases p <;> rfl

theorem edgeKind_ofCode (c : Nat) (e : EdgeKind) : EdgeKind.ofCode c = some e ↔ c = e.code := by
  constructor
  · intro hc
    unfold EdgeKind.ofCode at hc
    split at hc <;> cases hc <;> rfl
  · rintro rfl
    cases e <;> rfl

/-- The code of a timeout policy. -/
def policyCode : TimeoutPolicy → Nat
  | .skip => 0
  | .fault => 1

theorem timeoutPolicy_ofCode (c : Nat) (p : TimeoutPolicy) : TimeoutPolicy.ofCode c = some p ↔ c = policyCode p := by
  constructor
  · intro hc
    unfold TimeoutPolicy.ofCode at hc
    split at hc <;> cases hc <;> rfl
  · rintro rfl
    cases p <;> rfl

/-- The code of a time mode. -/
def timeModeCode : TimeMode → Nat
  | .abs => 0
  | .rel => 1

theorem timeMode_ofCode (c : Nat) (m : TimeMode) : TimeMode.ofCode c = some m ↔ c = timeModeCode m := by
  constructor
  · intro hc
    unfold TimeMode.ofCode at hc
    split at hc <;> cases hc <;> rfl
  · rintro rfl
    cases m <;> rfl

/-! ## The due time (R23) -/

section
variable {m : TimeMode} {time : Word64} {anchor : Instant} {pass : Word32} {period : Word64}

theorem dueTime_some (d : Instant) :
    dueTime m time anchor pass period = some d ↔ d.toNat = dueSum m time anchor pass period := by
  unfold dueTime
  split
  · next h =>
    rw [Option.some.injEq, ← BitVec.toNat_inj, BitVec.toNat_ofNat, Nat.mod_eq_of_lt h, eq_comm]
  · next h => exact iff_of_false (by simp) fun hd => h (hd ▸ d.isLt)

theorem dueTime_none :
    dueTime m time anchor pass period = none ↔ 2 ^ 64 ≤ dueSum m time anchor pass period := by
  unfold dueTime
  split
  · next h => exact iff_of_false (by simp) (Nat.not_le.mpr h)
  · next h => exact iff_of_true rfl (Nat.not_lt.mp h)

end

/-! ## The operands of each kind (R22) -/

theorem driveTarget_iff :
    driveTarget b = some g ↔
      (actionTargetIsGang b = false ∧ ∃ l : LaneId, actionIndexByte b = l.val ∧ g = .lane l) ∨
        (actionTargetIsGang b = true ∧ ∃ n : GangId, actionIndexByte b = n.val ∧ g = .gang n) := by
  simp only [← indexIn_iff]
  unfold driveTarget
  cases actionTargetIsGang b <;> simp [Option.map_eq_some_iff, @eq_comm _ g]

/-- SET, CLEAR and TOGGLE have their target alone. -/
theorem drive_iff (x : Action) :
    (driveTarget b).map (fun t => (x, t)) = some (a, g) ↔ a = x ∧ driveTarget b = some g := by
  cases driveTarget b <;> simp [eq_comm]

theorem single_iff (x : Action) (y : Target) : some (x, y) = some (a, g) ↔ a = x ∧ g = y := by
  simp [eq_comm]

theorem parsePulse_iff :
    parsePulse b = some (a, g) ↔
      driveTarget b = some g ∧ ∃ p : Drive, (fieldAt b 0x03 8).toNat = driveCode p ∧ (fieldAt b 0x10 32 : Word32) ≠ 0 ∧
        a = .pulse p (fieldAt b 0x10 32) := by
  simp only [← drive_ofCode]
  unfold parsePulse
  cases driveTarget b with
  | none => simp
  | some t =>
    cases Drive.ofCode (fieldAt b 0x03 8).toNat with
    | none => simp
    | some p =>
      simp only
      split_ifs with hw
      · simp [hw]
      · simp only [hw, ne_eq, not_false_eq_true, true_and]
        simp [and_comm, @eq_comm _ a]

theorem parseOpen_iff :
    parseOpen b = some (a, g) ↔
      g = .none ∧ ∃ (p : ProbeId) (e : EdgeKind),
        actionIndexByte b = p.val ∧ (fieldAt b 0x03 8).toNat = e.code ∧ (fieldAt b 0x10 64).toNat % 64 = 0 ∧
        (fieldAt b 0x10 64 : Address) ≠ 0 ∧ (fieldAt b 0x06 16) ≠ 0 ∧ (fieldAt b 0x1A 48).toNat ≤ maxSpan ∧
        a = .openWindow p e (fieldAt b 0x10 64) (fieldAt b 0x06 16).toNat (fieldAt b 0x18 16).toNat
          (fieldAt b 0x1A 48).toNat (fieldAt b 0x04 16).toNat := by
  simp only [← edgeKind_ofCode, ← indexIn_iff]
  have hzero : (fieldAt b 0x06 16).toNat = 0 ↔ fieldAt b 0x06 16 = 0 := BitVec.toNat_inj (y := 0)
  unfold parseOpen
  cases indexIn 16 (actionIndexByte b) with
  | none => simp
  | some p =>
    cases EdgeKind.ofCode (fieldAt b 0x03 8).toNat with
    | none => simp
    | some e =>
      simp only [hzero]
      split_ifs with hbad
      · refine iff_of_false (by simp) ?_
        rintro ⟨_, p, e, _, _, hal, hbucket, hcap, hspan, _⟩
        rcases hbad with hbad | hbad | hbad | hbad
        · exact hbad hal
        · exact hbucket hbad
        · exact hcap hbad
        · exact Nat.not_lt.mpr hspan hbad
      · obtain ⟨hal, hbucket, hcap, hspan⟩ := by
          simpa only [not_or, not_not, Nat.not_lt] using hbad
        simp only [hal, hbucket, hcap, hspan, ne_eq, not_false_eq_true, true_and]
        simp [and_comm, @eq_comm _ a, @eq_comm _ g]

theorem parseAwait_iff :
    parseAwait b = some (a, g) ↔
      g = .none ∧ ∃ (p : ProbeId) (e : EdgeKind) (pol : TimeoutPolicy),
        actionIndexByte b = p.val ∧ (fieldAt b 0x03 8).toNat = e.code ∧ (fieldAt b 0x04 8).toNat = policyCode pol ∧
        (fieldAt b 0x10 64).toNat ≤ maxSpan ∧ a = .await p e (fieldAt b 0x10 64).toNat pol := by
  simp only [← edgeKind_ofCode, ← indexIn_iff, ← timeoutPolicy_ofCode]
  unfold parseAwait
  cases indexIn 16 (actionIndexByte b) with
  | none => simp
  | some p =>
    cases EdgeKind.ofCode (fieldAt b 0x03 8).toNat with
    | none => simp
    | some e =>
      cases TimeoutPolicy.ofCode (fieldAt b 0x04 8).toNat with
      | none => simp
      | some pol =>
        simp only
        split_ifs with hspan
        · simp [hspan]
        · simp [Nat.not_lt.mp hspan, and_comm, eq_comm]

theorem parseClose_iff :
    ((indexIn 16 (actionIndexByte b)).map fun p => (Action.closeWindow p, Target.none)) = some (a, g) ↔
      g = .none ∧ ∃ p : ProbeId, actionIndexByte b = p.val ∧ a = .closeWindow p := by
  simp only [← indexIn_iff]
  cases indexIn 16 (actionIndexByte b) <;> simp [eq_comm, and_comm]

/-! ## The insertion request of a record (R23, R24) -/

section
variable {time : Word64} {anchor : Instant} {pass : Word32} {period : Word64} {d : Instant}

/-- An absolute due time is moved by the passes made, a relative one counts from the anchor (R23). -/
theorem dueTime_modes :
    (∃ m, actionTimeMode b = some m ∧ dueTime m time anchor pass period = some d) ↔
      (fieldAt b 0x01 2).toNat = 0 ∧ d.toNat = time.toNat + pass.toNat * period.toNat ∨
        (fieldAt b 0x01 2).toNat = 1 ∧ d.toNat = anchor.toNat + time.toNat := by
  simp only [actionTimeMode, timeMode_ofCode, dueTime_some]
  constructor
  · rintro ⟨m, hm, hd⟩
    cases m with
    | abs => exact .inl ⟨hm, hd⟩
    | rel => exact .inr ⟨hm, hd⟩
  · rintro (⟨hm, hd⟩ | ⟨hm, hd⟩)
    · exact ⟨.abs, hm, hd⟩
    · exact ⟨.rel, hm, hd⟩

end

theorem insertionOf_iff {t : TrackId} {k : Track} {f : FetchContext} {i : Nat} {r : Insertion} :
    insertionOf t k f i b = some r ↔
      ∃ (a : Action) (g : Target) (d : Instant), parseAction b = some (a, g) ∧
        (∃ m, actionTimeMode b = some m ∧ dueTime m (actionTime b) k.anchor k.pass f.period = some d) ∧
        r = ⟨t, a, d, g, actionNotify b, f.latePolicy, k.segment, k.pass, i⟩ := by
  unfold insertionOf
  cases parseAction b with
  | none => simp
  | some x =>
    obtain ⟨a₀, g₀⟩ := x
    cases actionTimeMode b with
    | none => simp
    | some m =>
      cases hdue : dueTime m (actionTime b) k.anchor k.pass f.period with
      | none => simp [hdue]
      | some d => simp [hdue, @eq_comm _ r]

/-! ## The context of a bad action (R22) -/

theorem isDrivingCode_iff (n : Nat) : isDrivingCode n = true ↔ 1 ≤ n ∧ n ≤ 4 := by
  simp only [isDrivingCode, Bool.or_eq_true, beq_iff_eq]
  omega

theorem badActionLanes_iff (l : LaneId) :
    laneIn (badActionLanes b) l = true ↔
      (actionKindByte b = 5 ∨ actionKindByte b = 6) ∧ laneIn (fieldAt b 0x02 16) l = true ∨
        (1 ≤ actionKindByte b ∧ actionKindByte b ≤ 4) ∧ actionTargetIsGang b = false ∧ actionIndexByte b = l.val := by
  unfold badActionLanes
  simp only [isDrivingCode_iff]
  split_ifs with hset hdrive
  · have hnot : ¬(1 ≤ actionKindByte b ∧ actionKindByte b ≤ 4) := by omega
    simp only [hset, hnot, true_and, false_and, or_false]
  · obtain ⟨hkind, hlane, hindex⟩ := hdrive
    simp only [hset, hkind, hlane, false_and, true_and, false_or, and_self]
    have hsingle := laneIn_single ⟨actionIndexByte b, hindex⟩ l
    rw [hsingle, decide_eq_true_iff, Fin.ext_iff]
  · refine iff_of_false (by simp only [laneIn_zero, Bool.false_eq_true, not_false_eq_true]) ?_
    rintro (⟨hkind, _⟩ | ⟨hkind, hlane, hindex⟩)
    · exact hset hkind
    · exact hdrive ⟨hkind, hlane, hindex ▸ l.isLt⟩

theorem badActionProbe_iff (p : ProbeId) :
    badActionProbe b = some p ↔
      (actionKindByte b = 7 ∨ actionKindByte b = 8 ∨ actionKindByte b = 9) ∧ actionIndexByte b = p.val := by
  unfold badActionProbe
  simp only
  split_ifs with hkind
  · rw [indexIn_iff, and_iff_right hkind]
  · exact iff_of_false (by simp) fun h => hkind h.1

/-! ## The statement -/

/-- Settles O48: the due time by its mode, the operands by the kind of the action. -/
theorem dueTimeOfAction : Obligations.DueTimeOfAction := by
  refine ⟨fun time anchor pass period => ⟨dueTime_some, dueTime_some, dueTime_none, dueTime_none⟩, fun b => ?_⟩
  intro kind mode notify isGang index second lanes edgeCode time aims
  refine ⟨fun a g => ?kinds, fun t k f i r => ?insertion, badActionLanes_iff, badActionProbe_iff⟩
  case insertion =>
    rw [insertionOf_iff]
    simp only [dueTime_modes]
    rfl
  case kinds =>
    have haims : driveTarget b = some g ↔ aims g := driveTarget_iff
    unfold parseAction
    split
    case h_11 h1 h2 h3 h4 h5 h6 h7 h8 h9 h10 =>
      refine iff_of_false (by simp) ?_
      rintro (⟨hk, _⟩ | ⟨hk, _⟩ | ⟨hk, _⟩ | ⟨hk, _⟩ | ⟨hk, _⟩ | ⟨hk, _⟩ | ⟨hk, _⟩ | ⟨hk, _⟩ | ⟨hk, _⟩ | ⟨hk, _⟩)
      exacts [h1 hk, h2 hk, h3 hk, h4 hk, h5 hk, h6 hk, h7 hk, h8 hk, h9 hk, h10 hk]
    all_goals
      rename_i hk
      simp only [show kind = _ from hk, false_and, true_and, or_false, false_or, Nat.reduceEqDiff]
    · exact (drive_iff _).trans (and_congr_right fun _ => haims)
    · exact (drive_iff _).trans (and_congr_right fun _ => haims)
    · exact (drive_iff _).trans (and_congr_right fun _ => haims)
    · exact parsePulse_iff.trans (and_congr haims Iff.rfl)
    · exact single_iff _ _
    · exact single_iff _ _
    · exact parseOpen_iff
    · exact parseClose_iff
    · exact parseAwait_iff
    · exact (single_iff _ _).trans and_comm

end Sys2Proof.Machine.ActionRecord
end

section
/-! SUPPORT. The action read (R21, R22, R24, R25, R42) and the link word read (R28 to R30). -/

namespace Sys2Proof.Machine.SegmentReads

open Sys2Proof.Machine.Laws Sys2Proof.Machine.AccessCompletions Sys2Proof.Machine.DueQueueEvents

variable {s : State} {t : TrackId} {a x : Address} {p g : Word32} {k : Track} {b : BitVec 256} {i : Nat}

theorem segmentTaken_iff :
    segmentTaken k a g = true ↔ k.state = .active ∧ k.segment = a ∧ k.fetch ≠ none ∧ k.readGeneration = g := by
  simp [segmentTaken, and_assoc, Option.isSome_iff_ne_none]

/-! ## The action read (R21, R22, R24, R25) -/

/-- The queue drops a request that is late under DROP_LATE, and one that meets a same-time driving entry (R48 to R51). -/
theorem willDrop_iff (r : Insertion) (v : State) :
    willDrop r v = true ↔
      (r.due ≤ v.timebase.count ∧ r.policy = .dropLate) ∨
        (v.timebase.count < r.due ∧ r.action.isDriving = true ∧
          ∃ e ∈ v.queue.entries, e.action.isDriving = true ∧ e.due = r.due ∧
            e.lanes &&& resolveTarget v.gangs r.target ≠ 0) := by
  rw [← collisionSet_ne_zero]
  by_cases hlate : r.due ≤ v.timebase.count
  · have hnot : ¬v.timebase.count < r.due := BitVec.not_lt.mpr hlate
    have hdrop : willDrop r v = (r.policy == .dropLate) := if_pos hlate
    simp only [hdrop, hlate, hnot, true_and, false_and, or_false, beq_iff_eq]
  · have hdue : v.timebase.count < r.due := BitVec.not_le.mp hlate
    have hdrop : willDrop r v = (r.action.isDriving &&
        !(collisionSet v.queue.entries r.due (resolveTarget v.gangs r.target) == 0)) := if_neg hlate
    simp only [hdrop, hlate, hdue, true_and, false_and, false_or, Bool.and_eq_true, Bool.not_eq_true', beq_eq_false_iff_ne]

/-- The state with the cursor past the action and the action counted dropped (R21, R22). -/
theorem countDropped_withTrack :
    countDropped t a (withTrack t k s) = withTrack t
      { k with
        droppedTotal := k.droppedTotal + 1
        openList := k.openList.map fun r => if r.address = a then { r with dropped := succ32Sat r.dropped } else r } s := by
  unfold countDropped
  rw [modTrack_eq, withTrack_get_self, withTrack_withTrack]
  rfl

/-- Settles O49, by what the read brings: nothing that is awaited, a bad action, an action to insert, or an error. -/
theorem actionRead : Obligations.ActionRead := by
  refine ⟨fun _ _ _ => segmentTaken_iff, willDrop_iff, fun s t a x i p g hf => ?_⟩
  intro k e u dropped
  refine ⟨fun b hd => ?discarded, fun b f htaken hfetch hi => ?bad, fun b f r htaken hfetch hi => ?good,
    fun htaken => ?failed⟩
  case discarded =>
    rw [exec_actionReadDone hf, actionDone_discarded (s := released s) hd]
    rfl
  case bad =>
    rw [exec_actionReadDone hf, actionDone_bad (s := released s) htaken hfetch hi, countDropped_withTrack]
    rfl
  case failed =>
    rw [exec_actionReadDone hf, actionDone_error (s := released s) htaken, countDropped_withTrack]
    rfl
  case good =>
    have hdone := actionDone_good (s := released s) (p := p) htaken hfetch hi
    rw [exec_actionReadDone hf, hdone]
    refine ⟨fun hawait => congrArg (fun z => Host.Outcome.next (servePort z)) (if_pos hawait), fun hother => ?_⟩
    refine congrArg (fun z => Host.Outcome.next (servePort z)) (if_neg fun ⟨hawait, hkept⟩ => ?_)
    rcases hother with hother | hother
    · exact Bool.false_ne_true (hother.symm.trans hawait)
    · exact Bool.false_ne_true (hkept.symm.trans hother)

/-! ## The link word read (R28 to R30) -/

/-- A link ends its segment: the record is fully fetched, which can retire it (R29). -/
def linkTaken (t : TrackId) (s : State) : State :=
  retireIfDone t (s.tracks.get t).segment (withTrack t
    { s.tracks.get t with
      fetch := none
      openList := (s.tracks.get t).openList.map fun r =>
        if r.address = (s.tracks.get t).segment then { r with fullyFetched := true } else r } s)

theorem markFullyFetched_eq :
    markFullyFetched t (s.modTrack t fun k => { k with fetch := none }) = linkTaken t s := by
  unfold markFullyFetched linkTaken
  simp only [modTrack_eq, withTrack_get_self, withTrack_withTrack]
  rfl

theorem takeLink_zero : takeLink t 0 s = formStatus t (setTrackState t .parked (linkTaken t s)) := by
  unfold takeLink
  simp only [markFullyFetched_eq, if_true]
  rfl

theorem takeLink_entered {v : Address} (h0 : v ≠ 0) (hal : v.toNat % 64 = 0) :
    takeLink t v s = beginEntry t v ((linkTaken t s).tracks.get t).segment (linkTaken t s) := by
  unfold takeLink
  simp only [markFullyFetched_eq, if_neg h0, hal, ne_eq, not_true_eq_false, if_false]

theorem linkTaken_now : (linkTaken t s).now = s.now :=
  congrArg Timebase.count (retireIfDone_timebase _)

theorem takeLink_misaligned {v : Address} (hal : v.toNat % 64 ≠ 0) :
    takeLink t v s = raiseFault .badSegment
      ⟨some t, 0, none, v, none, ((linkTaken t s).tracks.get t).pass, s.timebase.count⟩
      (formStatus t (setTrackState t .parked
        (withTrack t { (linkTaken t s).tracks.get t with rejectedLink := some v } (linkTaken t s)))) := by
  have h0 : v ≠ 0 := by
    rintro rfl
    exact hal rfl
  have hnow : (linkTaken t s).now = s.timebase.count := linkTaken_now
  unfold takeLink
  simp only [markFullyFetched_eq, if_neg h0, if_pos hal, hnow]
  rfl

section
variable {m : Bool}

theorem linkDone_again (h : segmentTaken (s.tracks.get t) a g = true) (r : ReadResult 64)
    (hr : r = .data 0 ∨ r = .error) :
    linkDone t a true p g r s = resumeFetch t (readFault r (segmentContext t a p s.now)
      (startPass t (withTrack t { s.tracks.get t with stallPort := false } s))) := by
  rw [linkDone_taken h]
  rcases hr with rfl | rfl <;> rfl

/-- A failed read counts as 0 (R30). -/
theorem linkDone_end (h : segmentTaken (s.tracks.get t) a g = true) (r : ReadResult 64)
    (hr : r = .data 0 ∨ r = .error) :
    linkDone t a false p g r s = readFault r (segmentContext t a p s.now)
      (takeLink t 0 (withTrack t { s.tracks.get t with stallPort := false } s)) := by
  rw [linkDone_taken h]
  rcases hr with rfl | rfl <;> rfl

theorem linkDone_link {v : Address} (h : segmentTaken (s.tracks.get t) a g = true) (h0 : v ≠ 0) :
    linkDone t a m p g (.data v) s = takeLink t v (withTrack t { s.tracks.get t with stallPort := false } s) := by
  rw [linkDone_taken h]
  exact if_neg fun hc => h0 hc.2

end

/-- Settles O52, by the value read: 0 or none, which loops or parks; an aligned link; a misaligned one. -/
theorem linkWordRead : Obligations.LinkWordRead := by
  intro s t a x loop p g hf k c u parked
  refine ⟨fun v hd => ?discarded, fun htaken => ?taken⟩
  case discarded =>
    rw [exec_linkWordReadDone hf, linkDone_discarded (s := released s) hd]
    rfl
  case taken =>
    obtain ⟨_, rfl, _, _⟩ := segmentTaken_iff.mp htaken
    have hu : linkTaken t (withTrack t { (released s).tracks.get t with stallPort := false } (released s)) = u := by
      unfold linkTaken
      rw [withTrack_get_self, withTrack_withTrack]
      rfl
    have hparked : takeLink t 0 (withTrack t { (released s).tracks.get t with stallPort := false } (released s)) = parked := by
      rw [takeLink_zero, hu]
    refine ⟨fun f hl hfetch => ?again, fun hl => ?ends, fun v h0 hal => ?entered, fun v hal => ?misaligned⟩
    case again =>
      intro again n
      subst hl
      have hn : startPass t (withTrack t { (released s).tracks.get t with stallPort := false } (released s)) = n := by
        rw [startPass_eq (f := f) (by rw [withTrack_get_self]; exact hfetch), withTrack_get_self, withTrack_withTrack]
        rfl
      rw [exec_linkWordReadDone hf, linkDone_again (s := released s) htaken _ (.inl rfl), exec_linkWordReadDone hf,
        linkDone_again (s := released s) htaken _ (.inr rfl)]
      exact ⟨congrArg (fun z => Host.Outcome.next (servePort (resumeFetch t z))) hn,
        congrArg (fun z => Host.Outcome.next (servePort (resumeFetch t (raiseFault .busRead c z)))) hn⟩
    case ends =>
      subst hl
      rw [exec_linkWordReadDone hf, linkDone_end (s := released s) htaken _ (.inl rfl), exec_linkWordReadDone hf,
        linkDone_end (s := released s) htaken _ (.inr rfl)]
      exact ⟨congrArg (fun z => Host.Outcome.next (servePort z)) hparked,
        congrArg (fun z => Host.Outcome.next (servePort (raiseFault .busRead c z))) hparked⟩
    case entered =>
      rw [exec_linkWordReadDone hf, linkDone_link (s := released s) htaken h0, takeLink_entered h0 hal, hu]
    case misaligned =>
      have h0 : v ≠ 0 := by
        rintro rfl
        exact hal rfl
      rw [exec_linkWordReadDone hf, linkDone_link (s := released s) htaken h0, takeLink_misaligned hal, hu]
      rfl

end Sys2Proof.Machine.SegmentReads
end

section
/-! SUPPORT. The scan's reads of a parked track's tail (R31) and of a held slot's flag (R126). -/

namespace Sys2Proof.Machine.ScanReads

open Sys2Proof.Machine.Laws Sys2Proof.Machine.SegmentReads

variable {s : State} {t : TrackId} {a x : Address} {n : SlotId}

/-! ## The tail link (R31) -/

theorem exec_scanLinkReadDone (h : InFlightIs s (.scan (.link t a)) x) (r : ReadResult 64) :
    exec (.scanLinkReadDone r) s = .next (servePort (scanLinkDone t a r (released s))) :=
  congrArg Host.Outcome.next (completeAccess_taken h rfl)

/-- A track that has left PARKED or its tail takes no link (R31, R42). -/
theorem scanLinkDone_left (h : (s.tracks.get t).state ≠ .parked ∨ (s.tracks.get t).segment ≠ a) (v : Address) :
    scanLinkDone t a (.data v) s = continueScan (fun held z => nextLinkRead held (t.val + 1) z) s := by
  refine congrArg (continueScan _) (if_neg fun ⟨hstate, hseg⟩ => ?_)
  rcases h with h | h
  · exact h hstate
  · exact h hseg

theorem scanLinkDone_parked (hs : (s.tracks.get t).state = .parked) (ha : (s.tracks.get t).segment = a) (v : Address) :
    scanLinkDone t a (.data v) s =
      continueScan (fun held z => nextLinkRead held (t.val + 1) z) (takeScanLink t v s) :=
  congrArg (continueScan _) (if_pos ⟨hs, ha⟩)

theorem takeScanLink_zero : takeScanLink t 0 s = withTrack t { s.tracks.get t with rejectedLink := none } s := rfl

theorem takeScanLink_rejected {v : Address} (h0 : v ≠ 0) (hr : (s.tracks.get t).rejectedLink = some v) :
    takeScanLink t v s = s := (if_neg h0).trans (if_pos hr)

/-- Any other value is taken as at a segment's end (R31). -/
theorem takeScanLink_link {v : Address} (h0 : v ≠ 0) (hr : (s.tracks.get t).rejectedLink ≠ some v) :
    takeScanLink t v s = formStatus t (takeLink t v
      (withTrack t { s.tracks.get t with state := .active, rejectedLink := none } s)) := by
  refine ((if_neg h0).trans (if_neg hr)).trans ?_
  rw [setTrackState_eq, enter_active, modTrack_eq, withTrack_get_self, withTrack_withTrack]

/-! ## The held flag (R126) -/

theorem exec_heldFlagReadDone (h : InFlightIs s (.scan (.heldFlag n)) x) (r : ReadResult 32) :
    exec (.heldFlagReadDone r) s = .next (servePort (heldFlagDone n x r (released s))) :=
  congrArg Host.Outcome.next (completeAccess_taken h rfl)

theorem heldFlagDone_eq (b : BitVec 32) :
    heldFlagDone n x (.data b) s = continueScan (fun held _ => nextFlagRead held (n.val + 1))
      (if s.faults.slots.get n = .held ∧ b.getLsbD 0 = false then
        { s with faults := { s.faults with slots := s.faults.slots.put n .free } } else s) := rfl

theorem heldFlagDone_freed {b : BitVec 32} (hh : s.faults.slots.get n = .held) (hb : b.getLsbD 0 = false) :
    heldFlagDone n x (.data b) s = continueScan (fun held _ => nextFlagRead held (n.val + 1))
      { s with faults := { s.faults with slots := s.faults.slots.put n .free } } := by
  rw [heldFlagDone_eq, if_pos ⟨hh, hb⟩]

theorem heldFlagDone_kept {b : BitVec 32} (h : s.faults.slots.get n ≠ .held ∨ b.getLsbD 0 = true) :
    heldFlagDone n x (.data b) s = continueScan (fun held _ => nextFlagRead held (n.val + 1)) s := by
  rw [heldFlagDone_eq, if_neg]
  rintro ⟨hheld, hflag⟩
  rcases h with h | h
  · exact h hheld
  · exact Bool.false_ne_true (hflag.symm.trans h)

/-! ## The statement -/

theorem tailRead (s : State) (t : TrackId) (a x : Address) (hf : InFlightIs s (.scan (.link t a)) x)
    (hs : (s.tracks.get t).state = .parked) (ha : (s.tracks.get t).segment = a) (v : Address) :
    exec (.scanLinkReadDone (.data v)) s =
      .next (scanReads (fun held z => nextLinkRead held (t.val + 1) z) (takeScanLink t v (released s))) := by
  rw [exec_scanLinkReadDone hf, scanLinkDone_parked (s := released s) hs ha]
  rfl

/-- Settles O53: a parked track takes its tail link by its value; a held slot is freed by its flag. -/
theorem tailAndFlagReads : Obligations.TailAndFlagReads := by
  refine ⟨fun s t a x hf => ?tail, fun s n x hf => ?flag⟩
  case flag =>
    intro u goesOn
    refine ⟨?failed, fun b hh hb => ?freed, fun b hk => ?kept⟩
    case failed =>
      rw [exec_heldFlagReadDone hf]
      rfl
    case freed =>
      rw [exec_heldFlagReadDone hf, heldFlagDone_freed (s := released s) hh hb]
      rfl
    case kept =>
      rw [exec_heldFlagReadDone hf, heldFlagDone_kept (s := released s) hk]
      rfl
  case tail =>
    intro k u goesOn
    refine ⟨?failed, fun hleft v => ?left, fun hs ha => ?parked⟩
    case failed =>
      rw [exec_scanLinkReadDone hf]
      rfl
    case left =>
      rw [exec_scanLinkReadDone hf, scanLinkDone_left (s := released s) hleft]
      rfl
    case parked =>
      intro z
      have hz : linkTaken t (withTrack t { u.tracks.get t with state := .active, rejectedLink := none } u) = z := by
        unfold linkTaken
        rw [withTrack_get_self, withTrack_withTrack]
        subst ha
        rfl
      refine ⟨tailRead s t a x hf hs ha 0, fun v h0 hr => ?rejected, fun v h0 hr hal => ?entered,
        fun v hr hal => ?misaligned⟩
      case rejected => rw [tailRead s t a x hf hs ha, takeScanLink_rejected (s := released s) h0 hr]
      case entered =>
        rw [tailRead s t a x hf hs ha, takeScanLink_link (s := released s) h0 hr, takeLink_entered h0 hal, hz]
      case misaligned =>
        have h0 : v ≠ 0 := by
          rintro rfl
          exact hal rfl
        rw [tailRead s t a x hf hs ha, takeScanLink_link (s := released s) h0 hr, takeLink_misaligned hal, hz]
        rfl

end Sys2Proof.Machine.ScanReads
end
